-- ==== Sys2Proof/Word.lean ====
section
/-! DEFINITION. The words of the block: bytes of the bus and register addresses (R7, R8, R10, R86). -/

namespace Sys2Proof

/-- One word of the bus: 8 bits, bit 0 the least significant (R7, R26). -/
abbrev Byte := BitVec 8

/-- A register address: `ADDR_W = 6` bits, so that an address of 64 or more cannot be written
(R10, R86; DESIGN CHOICE of the spec D3, log 1, safe). -/
abbrev Addr := BitVec 6

/-- The read/write flag of the control byte, one bit (R81, R87). -/
abbrev Flag := BitVec 1

end Sys2Proof
end

