-- ==== Sys2Proof/Config.lean ====
section
/-! DEFINITION. The constants the source fixes (R5, R6, R34) and the open parameters of the block and of its
environment (00_scope.md parameter table; 92_eei_decisions.md D8, D11, D12, D20). -/

namespace Sys2Proof.Config

/-- `WORD_BIT_COUNT = 8` (R5). -/
def wordBitCount : Nat := 8

/-- `ADDRESS_OFFSET = 2` (R5). -/
def addressOffset : Nat := 2

/-- `FLAG_OFFSET = 0` (R5). -/
def flagOffset : Nat := 0

/-- `FLAG_READ = 1` (R5, R87). -/
def flagRead : Flag := 1

/-- `FLAG_WRITE = 0` (R5, R87). -/
def flagWrite : Flag := 0

/-- `FILLER = (1 << WORD_BIT_COUNT) - 1`, fixed at all ones (R5, R112; 90_conflicts.md C1). -/
def filler : Byte := BitVec.ofNat 8 ((1 <<< wordBitCount) - 1)

/-- `VALID_ADDR`, the 20 enumerated register addresses (R6, R66). -/
def validAddr : List Addr :=
  [0x00, 0x01, 0x02, 0x03, 0x04, 0x05, 0x06, 0x07, 0x08, 0x09,
   0x0A, 0x0B, 0x0C, 0x0D, 0x0E, 0x0F, 0x10, 0x11, 0x3E, 0x3F]

end Sys2Proof.Config

namespace Sys2Proof

/-- A capacity bound: `none` is "unbounded", the source's behaviour (D8, N10). -/
abbrev Bound := Option Nat

/-- The value is within the bound. -/
def Bound.admits (b : Bound) (v : Nat) : Bool :=
  match b with
  | none => true
  | some m => decide (v ≤ m)

/-- The bound is open or at least `v` (00_scope.md parameter table: the lower limits of a finite bound). -/
def Bound.atLeast (b : Bound) (v : Nat) : Bool :=
  match b with
  | none => true
  | some m => decide (v ≤ m)

/-- The four OPEN capacity parameters `MAX_OPS`, `MAX_N`, `MAX_DATA`, `MAX_TX` (D8). They are carried in State
and no step writes them, so a claim over every state is a claim over every choice of them (log 4). -/
structure Capacity where
  maxOps : Bound
  maxN : Bound
  maxData : Bound
  maxTx : Bound
deriving DecidableEq, Repr

/-- The source's behaviour: no bound at all (D8; N10). -/
def Capacity.unbounded : Capacity := { maxOps := none, maxN := none, maxData := none, maxTx := none }

/-- A finite bound is at least 2, 3, 2 and 7 (00_scope.md parameter table; D8). -/
def Capacity.legal (c : Capacity) : Bool :=
  c.maxOps.atLeast 2 && c.maxN.atLeast 3 && c.maxData.atLeast 2 && c.maxTx.atLeast 7

/-- A clock phase/polarity mode, as an uninterpreted label: the spec gives no member of the supported set
(R177, N4; DESIGN CHOICE, log 19, safe). -/
abbrev ClockMode := Nat

/-- A transport capability flag, as an uninterpreted label (R181, N13; DESIGN CHOICE, log 19, safe). -/
abbrev CapabilityFlag := Nat

/-- The report a failing transport makes, as an uninterpreted label passed on unchanged
(R175, N8; DESIGN CHOICE, log 20, safe). -/
abbrev FailureReport := Nat

/-- Which bit of a word the bus sends first (R59, R179). -/
inductive BitOrder where
  | msbFirst
  | lsbFirst
deriving DecidableEq, Repr

/-- What the environment supports: `SUPPORTED_MODES`, `MAX_CLOCK_HZ`, `KNOWN_FLAGS`
(D11, D12, D20; OPEN parameters of the construction check). -/
structure BusLimits where
  supportedModes : List ClockMode
  maxClockHz : Nat
  knownFlags : List CapabilityFlag
deriving DecidableEq, Repr

/-- `SUPPORTED_MODES` is a non-empty set and `MAX_CLOCK_HZ` a positive ceiling; any set of known flags is legal
(00_scope.md parameter table). -/
def BusLimits.legal (l : BusLimits) : Bool := !l.supportedModes.isEmpty && decide (0 < l.maxClockHz)

/-- The bus configuration the environment checks at construction (R39, R176; the four last rows of R34's table). -/
structure BusConfig where
  mode : ClockMode
  speedHz : Nat
  bitOrder : BitOrder
  wordBits : Nat
  flags : List CapabilityFlag
deriving DecidableEq, Repr

/-- The constraints of the construction check (R177 to R180). -/
inductive Constraint where
  | mode
  | speed
  | bitOrder
  | wordSize
deriving DecidableEq, Repr

end Sys2Proof
end

