-- ==== Sys2Proof/Syntax.lean ====
section
/-! DEFINITION. The operations (R2, R10), one constructor per row of spec/opcode_table.json. -/

namespace Sys2Proof

/-- A raw Operation (R10). The control byte is no field: it is "never stored, always derived". -/
inductive Instr where
  /-- `READ addr, N`: read N bytes from device register addr (R111). -/
  | read (addr : Addr) (n : Nat)
  /-- `WRITE addr, data`: write the bytes to device register addr (R114). -/
  | write (addr : Addr) (data : List Byte)
deriving DecidableEq, Repr

/-- The register address an operation names, its effective address (R121). -/
def Instr.addr : Instr → Addr
  | .read addr _ => addr
  | .write addr _ => addr

/-- The data byte count D: N of a Read, the number of data bytes of a Write (R80). -/
def Instr.dataCount : Instr → Nat
  | .read _ n => n
  | .write _ data => data.length

end Sys2Proof
end

