-- ==== Sys2Proof/WellFormed.lean ====
section
/-! DEFINITION. Well-formed operations and transactions (R11, R12), relative to the capacity bounds. -/

namespace Sys2Proof

/-- The address is one of the 20 enumerated values (R6, R11, R67). -/
def Addr.valid (a : Addr) : Bool := Config.validAddr.contains a

/-- A well-formed operation (R11): enumerated address, `1 ≤ N ≤ MAX_N` for a Read, `len(data) ≤ MAX_DATA` for a
Write (an empty Write is admitted, D7). -/
def Instr.wellFormed (cap : Capacity) : Instr → Bool
  | .read addr n => Addr.valid addr && decide (1 ≤ n) && cap.maxN.admits n
  | .write addr data => Addr.valid addr && cap.maxData.admits data.length

/-- A well-formed transaction (R12): at least one operation, at most `MAX_OPS`, each well-formed, and the transmit
lengths `1 + D` (R80) sum to at most `MAX_TX`. -/
def transactionWellFormed (cap : Capacity) (ops : List Instr) : Bool :=
  !ops.isEmpty && cap.maxOps.admits ops.length && ops.all (Instr.wellFormed cap)
    && cap.maxTx.admits (ops.map fun i => 1 + i.dataCount).sum

end Sys2Proof
end

