-- ==== Sys2Proof/Decode.lean ====
section
/-! DEFINITION. The encoding of an operation, its transmit payload (R80 to R84, R110, R112, R115), and the inverse
the spec states for it (R91, R93, R94). -/

namespace Sys2Proof

/-! ### Decoding -/

/-- Why bytes are the payload of no well-formed operation. -/
inductive DecodeError where
  /-- No control byte at all (R80: the control byte is always exactly one byte). -/
  | noControlByte
  /-- Bit 1 of the control byte is set: a reserved pattern, never produced (R81, R93). -/
  | reservedBit
  /-- The address field is in 0x12 to 0x3D: a reserved pattern (R67, R93). -/
  | reservedAddress (addr : Addr)
  /-- A Read control byte with no filler after it would be a Read of 0 bytes (R92, D6). -/
  | zeroWidthRead
  /-- A byte after a Read control byte is not the filler 0xFF (R83, C1). -/
  | notFiller
deriving DecidableEq, Repr

/-- `ADDR = bits[7:2]` (R91). -/
def addrField (b : Byte) : Addr := b.extractLsb' 2 6

/-- Bit 1, covered by no field (R81). -/
def reservedField (b : Byte) : BitVec 1 := b.extractLsb' 1 1

/-- `RW = bits[0]` (R91). -/
def flagField (b : Byte) : Flag := b.extractLsb' 0 1

/-- The operation whose payload is a control byte followed by `rest`: the counts are the number of bytes that follow
(R88), so the whole of one operation's run is given (R94). DEDUCED from R91 and R93; log 15, safe. -/
def decodePayload (control : Byte) (rest : List Byte) : Except DecodeError Instr :=
  if reservedField control ≠ 0 then .error .reservedBit
  else if !Addr.valid (addrField control) then .error (.reservedAddress (addrField control))
  else if flagField control = Config.flagRead then
    if rest.isEmpty then .error .zeroWidthRead
    else if rest.all (· == Config.filler) then .ok (.read (addrField control) rest.length)
    else .error .notFiller
  else .ok (.write (addrField control) rest)

/-- One operation from the bytes of its run (R91, R94); total, every refusal by name. -/
def decode : List Byte → Except DecodeError Instr
  | [] => .error .noControlByte
  | control :: rest => decodePayload control rest

/-- The operations of a transmit buffer, cut at the recorded lengths: `TX` is not self-delimiting, so `LEN` is a
second input (R94). None where the lengths do not cover the buffer exactly or a run is no payload. -/
def decodeBuffer : List Nat → List Byte → Option (List Instr)
  | [], [] => some []
  | [], _ :: _ => none
  | l :: ls, bytes =>
    if bytes.length < l then none
    else
      match decode (bytes.take l), decodeBuffer ls (bytes.drop l) with
      | .ok i, some is => some (i :: is)
      | _, _ => none

/-! ### Encoding -/

/-- `control_byte(a, f) = (a << ADDRESS_OFFSET) | (f << FLAG_OFFSET)` (R82, R110). -/
def controlByte (a : Addr) (f : Flag) : Byte :=
  (a.zeroExtend 8 <<< Config.addressOffset) ||| (f.zeroExtend 8 <<< Config.flagOffset)

/-- `transmit_payload(Read(addr, N)) = [control_byte(addr, 1)] ++ [FILLER] * N` (R83, R112). -/
def readPayload (addr : Addr) (n : Nat) : List Byte :=
  controlByte addr Config.flagRead :: List.replicate n Config.filler

/-- `transmit_payload(Write(addr, data)) = [control_byte(addr, 0)] ++ data` (R84, R115). -/
def writePayload (addr : Addr) (data : List Byte) : List Byte :=
  controlByte addr Config.flagWrite :: data

/-- `transmit_payload`: the encoding of an operation (R80, R117); total on raw operations (R13). -/
def encode : Instr → List Byte
  | .read addr n => readPayload addr n
  | .write addr data => writePayload addr data

/-- `transmit_length(op) = len(transmit_payload(op))` (R118). -/
def transmitLength (i : Instr) : Nat := (encode i).length

/-! ### The opcode table's words -/

/-- The bytes of a word whose first byte is its least significant one. -/
def wordBytes : Nat → Nat → List Byte
  | 0, _ => []
  | k + 1, w => BitVec.ofNat 8 w :: wordBytes k (w / 256)

/-- The run of bytes a table word stands for. The table gives a row its control byte alone, and no count is written
in any byte (R88), so the word is completed to the shortest operation with that control byte: one FILLER for a Read
(a Read has at least one byte, R11), nothing for a Write (DESIGN CHOICE, log 14, safe). -/
def tableBytes (nbits w : Nat) : List Byte :=
  match wordBytes (nbits / 8) w with
  | [control] => if flagField control = Config.flagRead then [control, Config.filler] else [control]
  | bytes => bytes

/-- The operation the decoder reads from a word of spec/opcode_table.json. -/
def decodeTableWord (nbits w : Nat) : Option Instr :=
  match decode (tableBytes nbits w) with
  | .ok i => some i
  | .error _ => none

end Sys2Proof
end

