-- ==== Sys2Proof/Machine/State.lean ====
section
/-! DEFINITION. The state of the block: the eight working registers of one transaction (R22), the moment of the
block's life (R182), the capacity parameters, the two agents it talks to, and the event history a model keeps (R192).
Plain data. -/

namespace Sys2Proof.Machine

/-- `PHASE`: which of the four steps of the algorithm runs (R22, R30). -/
inductive Phase where
  | idle
  | flatten
  | exchange
  | demux
deriving DecidableEq, Repr

/-- The result of one operation (R29): `value(v)`, an unsigned natural, for a Read; `absent` for a Write, distinct
from `value(0)` (R116). -/
inductive Result where
  | value (v : Nat)
  | absent
deriving DecidableEq, Repr

/-- The transport's answer to one `Transfer` (R38, R53, R175). No answer at all is an empty list of answers. -/
inductive Answer where
  | bytes (rx : List Byte)
  | fail (e : FailureReport)
deriving DecidableEq, Repr

/-- The two errors that end a running transaction (R171, R172, R175), with what R171's table says each records. -/
inductive Abort where
  /-- The response's length differs from the request's; carries both (R146, R172, D9). -/
  | protocolInvariantViolation (sent received : Nat)
  /-- The transport reported failure (R175). -/
  | transportFailure (e : FailureReport)
deriving DecidableEq, Repr

/-- Why an operation list is refused before acceptance (R92). -/
inductive IllFormed where
  | emptyTransaction
  | badAddress
  | zeroWidthRead
  | tooLong
deriving DecidableEq, Repr

/-- What the model's history records, in the order it happened (R192, D13; log 10). -/
inductive Event where
  /-- The request `Transfer(tx)` on `XFER` (R38, R144). -/
  | transfer (tx : List Byte)
  /-- `Results(res)` on `RSP` (R37, R149). -/
  | results (res : List Result)
  /-- `Abort(e)` on `RSP` (R37, R183). -/
  | abort (e : Abort)
  /-- The operation list was refused, with every reason that holds (R92; log 3). -/
  | refused (reasons : List IllFormed)
  /-- `ConfigurationError` at construction, with the failed constraints (R170, R188). -/
  | configurationError (failed : List Constraint)
  /-- `ConfigurationWarning` on `DIAG`, with the unrecognised flags (R181). -/
  | configurationWarning (flags : List CapabilityFlag)
deriving DecidableEq, Repr

/-- The two moments of the block's life (R182), and its end when construction fails (R187). -/
inductive Stage where
  /-- Construction: the environment is about to check this configuration against its limits (R176). -/
  | construction (limits : BusLimits) (bus : BusConfig)
  /-- Constructed: `OPERATE` calls are made (R182). -/
  | operational
  /-- A `ConfigurationError` aborted the set-up; the block is not built (R176, R187). -/
  | abandoned (failed : List Constraint)
deriving DecidableEq, Repr

/-- The working registers other than `PHASE`, by name (R22). -/
inductive Reg where
  | ops
  | idx
  | tx
  | len
  | rx
  | cur
  | res
deriving DecidableEq, Repr

/-- The machine. A register that holds no value (R32, R43) is `none`: that is the spec's own state, and a model must
not give it a value. -/
structure State where
  /-- The moment of the block's life (R182, R187; log 12). -/
  stage : Stage
  /-- `MAX_OPS`, `MAX_N`, `MAX_DATA`, `MAX_TX` (D8); no step writes them (log 4). -/
  cap : Capacity
  /-- `PHASE` (R30). -/
  phase : Phase
  /-- `OPS`, the borrowed operation sequence (R23). -/
  ops : Option (List Instr)
  /-- `IDX`, the block's program counter: the operation the phase handles next (R27). -/
  idx : Option Nat
  /-- `TX`, the transmit buffer (R24). -/
  tx : Option (List Byte)
  /-- `LEN`, the recorded transmit lengths (R25). -/
  len : Option (List Nat)
  /-- `RX`, the response buffer (R26). -/
  rx : Option (List Byte)
  /-- `CUR`, the byte cursor (R28). -/
  cur : Option Nat
  /-- `RES`, the result list (R29). -/
  res : Option (List Result)
  /-- The host: the calls `OPERATE(ops)` it makes on `CMD`, in order; an input (R36; log 6). -/
  calls : List (List Instr)
  /-- The transport: the answers it gives on `XFER`, in order; an input under no law (R53; log 5). -/
  answers : List Answer
  /-- Everything that went out on `XFER`, `RSP` and `DIAG`, and every refusal, oldest first (R192). -/
  history : List Event
deriving DecidableEq, Repr

/-- Power-on, which is also the state after construction and between calls: `PHASE = IDLE`, no working register holds
a value (R43, R200), nothing has been presented, answered or recorded; capacities unbounded (D8). Logs 4, 5, 6, 10, 12. -/
def State.reset : State where
  stage := .operational
  cap := Capacity.unbounded
  phase := .idle
  ops := none
  idx := none
  tx := none
  len := none
  rx := none
  cur := none
  res := none
  calls := []
  answers := []
  history := []

/-- Why the machine stops. -/
inductive Fault where
  /-- A rule reads a working register that holds no value (R32, D14). Raised by the shared register reads of Ops;
  never in a state that meets R31. Safe. -/
  | noValue (r : Reg)
  /-- `IDX` is beyond the operation list, which R27 excludes. Raised at the end of a walk over the list; never in a
  state that meets R31. Safe. -/
  | idxPastEnd
  /-- `LEN` has no entry for `IDX`, which R31 excludes. Raised by the demultiplex step; never in a state that meets
  R31. Safe. -/
  | noLength (i : Nat)
  /-- A step of a block whose construction failed: `ConfigurationError`, the block is not built and nothing else ever
  happens (R187, U15). Raised by the coordinator's step. Safe. -/
  | configurationError (failed : List Constraint)
deriving DecidableEq, Repr

/-- Why the model gives no meaning. -/
inductive Refusal where
  /-- The instruction has no meaning in the model yet. Raised by exec's arms only. Safe. -/
  | notModelled (mnemonic : String)
  /-- An operation is executed while no walk over the list runs: the spec gives an operation an effect inside a
  transaction only, in FLATTEN and DEMUX (R111, R114). Raised by the operations' meanings; no step does it. Safe. -/
  | outsideTransaction (phase : Phase)
  /-- `parse` is not applied to a slice of another length than the payload's (R113, D21). Raised by the demultiplex
  step; never in a state that meets R31. Safe. -/
  | sliceLength (got : Nat)
deriving DecidableEq, Repr

end Sys2Proof.Machine
end

