-- ==== Sys2Proof/Machine/Ops.lean ====
section
/-! DEFINITION. The named operations over the working registers, the abort (the block's one way to take an error,
R183; there is no return from it, R185), and the two halves of an operation's run (R143, R147). -/

namespace Sys2Proof.Machine

/-- What a step or a meaning answers. -/
abbrev StepOutcome := Host.Outcome State Fault Refusal

/-! ### Register reads and updates -/

/-- Read a working register; reading one that holds no value is a model fault (R32, D14; log 11). -/
def need {α : Type} (r : Reg) (v : Option α) (k : α → StepOutcome) : StepOutcome :=
  match v with
  | some a => k a
  | none => .fault (.noValue r)

/-- Append to the event history; nothing is ever removed from it (R192). -/
def State.emit (e : Event) (s : State) : State := { s with history := s.history ++ [e] }

/-- Every working register back to no value and `PHASE <- IDLE` (R149, R183; R43). -/
def State.released (s : State) : State :=
  { s with
    phase := .idle, ops := none, idx := none, tx := none, len := none, rx := none, cur := none, res := none }

/-- Accept (R142): `OPS <- ops`, `IDX <- 0`, `TX <- []`, `LEN <- []`, `RES <- []`, `PHASE <- FLATTEN`. -/
def State.accepted (ops : List Instr) (s : State) : State :=
  { s with phase := .flatten, ops := some ops, idx := some 0, tx := some [], len := some [], res := some [] }

/-- The effect of one flatten step (R143) on the registers it writes. -/
def State.flattened (i : Nat) (tx : List Byte) (len : List Nat) (payload : List Byte) (s : State) : State :=
  { s with tx := some (tx ++ payload), len := some (len ++ [payload.length]), idx := some (i + 1) }

/-- The effect of one demultiplex step (R147) on the registers it writes. -/
def State.demultiplexed (i cur l : Nat) (res : List Result) (r : Result) (s : State) : State :=
  { s with res := some (res ++ [r]), cur := some (cur + l), idx := some (i + 1) }

/-- The effect of an answer of the right length (R146): `RX` holds it, `CUR <- 0`, `IDX <- 0`, `PHASE <- DEMUX`. -/
def State.answered (rx : List Byte) (s : State) : State :=
  { s with rx := some rx, cur := some 0, idx := some 0, phase := .demux }

/-- Issue (R144): the request `Transfer(TX)` goes out and `PHASE <- EXCHANGE`. -/
def State.issued (tx : List Byte) (s : State) : State :=
  { s with phase := .exchange, history := s.history ++ [.transfer tx] }

/-- The calls the host has still to make. -/
def State.withCalls (calls : List (List Instr)) (s : State) : State := { s with calls := calls }

/-- The answers the transport has still to give. -/
def State.withAnswers (answers : List Answer) (s : State) : State := { s with answers := answers }

/-- The moment of the block's life (R182). -/
def State.withStage (stage : Stage) (s : State) : State := { s with stage := stage }

/-! ### The abort -/

/-- Abort entry (R183): exactly one `Abort` message, no results, every working register discarded, `PHASE <- IDLE`.
Nothing is saved and there is no handler, so there is no return from it (R185). -/
def State.aborted (e : Abort) (s : State) : State := (s.emit (.abort e)).released

/-! ### The two halves of an operation's run -/

/-- `s[a : b]`, the half-open slice (R8). -/
def slice (s : List Byte) (a b : Nat) : List Byte := (s.take b).drop a

/-- Flatten step (R143): `TX <- TX ++ p`, `LEN <- LEN ++ [len(p)]`, `IDX <- IDX + 1`. -/
def flattenStep (payload : List Byte) (s : State) : StepOutcome :=
  need .idx s.idx fun i => need .tx s.tx fun tx => need .len s.len fun len =>
    .next (s.flattened i tx len payload)

/-- Demultiplex step (R147) with the operation's `parse`: the slice `RX[CUR : CUR + LEN[IDX]]`, its result appended to
`RES`, `CUR <- CUR + LEN[IDX]`, `IDX <- IDX + 1`. A slice `parse` is not defined on is refused (D21; log 17). -/
def demuxStep (parse : List Byte → Option Result) (s : State) : StepOutcome :=
  need .idx s.idx fun i => need .len s.len fun len => need .rx s.rx fun rx =>
    need .cur s.cur fun cur => need .res s.res fun res =>
      match len[i]? with
      | none => .fault (.noLength i)
      | some l =>
        match parse (slice rx cur (cur + l)) with
        | none => .refused (.sliceLength (slice rx cur (cur + l)).length)
        | some r => .next (s.demultiplexed i cur l res r)

/-- An operation executes by `PHASE`: its payload is flattened in FLATTEN and its slice parsed in DEMUX (R111, R114);
outside those two walks the spec gives it no effect (log 16). -/
def runOperation (payload : List Byte) (parse : List Byte → Option Result) (s : State) : StepOutcome :=
  match s.phase with
  | .flatten => flattenStep payload s
  | .demux => demuxStep parse s
  | .idle => .refused (.outsideTransaction .idle)
  | .exchange => .refused (.outsideTransaction .exchange)

end Sys2Proof.Machine
end

