-- ==== Sys2Proof/Machine/Construction.lean ====
section
/-! DEFINITION. The configuration check at the boundary, made once by the caller's environment at construction
(R176 to R181, R187, R188). -/

namespace Sys2Proof.Machine

/-- Whether the bus configuration violates the constraint: mode in `SUPPORTED_MODES` (R177), speed at most
`MAX_CLOCK_HZ` (R178, D11), most-significant bit first (R179), words of 8 bits (R180). -/
def violates (limits : BusLimits) (bus : BusConfig) : Constraint → Bool
  | .mode => !limits.supportedModes.contains bus.mode
  | .speed => decide (limits.maxClockHz < bus.speedHz)
  | .bitOrder => decide (bus.bitOrder ≠ .msbFirst)
  | .wordSize => decide (bus.wordBits ≠ Config.wordBitCount)

/-- The set of failed constraints (R188, D10), listed once each. -/
def failedConstraints (limits : BusLimits) (bus : BusConfig) : List Constraint :=
  [.mode, .speed, .bitOrder, .wordSize].filter (violates limits bus)

/-- The capability flags outside the known set (R181). -/
def unrecognisedFlags (limits : BusLimits) (bus : BusConfig) : List CapabilityFlag :=
  bus.flags.filter fun f => !limits.knownFlags.contains f

/-- The warning event on `DIAG`, when there is anything to warn of; it changes nothing else (R181, D20). -/
def State.warned (flags : List CapabilityFlag) (s : State) : State :=
  match flags with
  | [] => s
  | f :: fs => s.emit (.configurationWarning (f :: fs))

/-- The outcome of the check: any failed constraint is one `ConfigurationError` and the set-up is abandoned; otherwise
the block is built (R176, R187, R188). -/
def State.checked (failed : List Constraint) (s : State) : State :=
  match failed with
  | [] => s.withStage .operational
  | c :: cs => (s.emit (.configurationError (c :: cs))).withStage (.abandoned (c :: cs))

/-- Construction (R203 steps 2 and 3): the check, then the note of unrecognised flags, which accompanies either
outcome (R188; the order of the two events is a DESIGN CHOICE, log 23). -/
def construct (limits : BusLimits) (bus : BusConfig) (s : State) : State :=
  (s.checked (failedConstraints limits bus)).warned (unrecognisedFlags limits bus)

/-- The block before its construction is checked: the power-on state, at stage construction (R182, R203). -/
def State.atConstruction (limits : BusLimits) (bus : BusConfig) : State :=
  State.reset.withStage (.construction limits bus)

end Sys2Proof.Machine
end

