-- ==== Sys2Proof/Machine/Operands.lean ====
section
/-! DEFINITION. Reading the response: the fold and the parse of each variant (R57, R85, R89, R113, R116, R119). -/

namespace Sys2Proof.Machine

/-- `fold(s)`: `r <- 0; for each byte b in order: r <- (r << 8) | b` (R8, R113), an unbounded natural (R89, D17). -/
def fold (bytes : List Byte) : Nat :=
  bytes.foldl (fun r b => (r <<< Config.wordBitCount) ||| b.toNat) 0

/-- `parse(Read(addr, N), slice)`: defined when `len(slice) = 1 + N`; the first byte is discarded and the other N are
folded (R113, R122; log 9). Another length is not parsed (D21; log 17). -/
def parseRead (n : Nat) (s : List Byte) : Option Result :=
  if s.length = 1 + n then some (.value (fold (slice s 1 (1 + n)))) else none

/-- `parse(Write(addr, data), slice) = absent`, for every slice (R116). -/
def parseWrite (_slice : List Byte) : Option Result := some .absent

/-- `parse` of an operation (R117); `none` where it is not applied (D21). -/
def parse : Instr → List Byte → Option Result
  | .read _ n => parseRead n
  | .write _ _ => parseWrite

end Sys2Proof.Machine
end

