-- ==== Sys2Proof/Machine/Coordinator.lean ====
section
/-! DEFINITION. The Transaction Coordinator: the steps of OPERATE that are no operation's own (R142, R144 to R146,
R149), the refusal of ill-formed lists (R92), and the two pure functions of R150. -/

namespace Sys2Proof.Machine

/-! ### Accept or refuse -/

/-- Whether an operation list is ill-formed for the reason (R11, R12, R92). -/
def illFormedBecause (cap : Capacity) (ops : List Instr) : IllFormed → Bool
  | .emptyTransaction => ops.isEmpty
  | .badAddress => ops.any fun i => !Addr.valid i.addr
  | .zeroWidthRead => ops.any fun
      | .read _ n => n == 0
      | .write _ _ => false
  | .tooLong =>
      !cap.maxOps.admits ops.length
        || (ops.any fun
          | .read _ n => !cap.maxN.admits n
          | .write _ data => !cap.maxData.admits data.length)
        || !cap.maxTx.admits (ops.map transmitLength).sum

/-- Every reason for which the list is refused; empty for a well-formed transaction. The spec names no order among
several, so all of them are recorded (log 3). -/
def refusalReasons (cap : Capacity) (ops : List Instr) : List IllFormed :=
  [.emptyTransaction, .badAddress, .zeroWidthRead, .tooLong].filter (illFormedBecause cap ops)

/-- `OPERATE(ops)` presented in IDLE: accepted if well-formed (R142), otherwise refused by name with nothing sent and
`PHASE` still IDLE (R92; step table of 41_coordinator.md; log 2). -/
def State.presented (ops : List Instr) (s : State) : State :=
  match refusalReasons s.cap ops with
  | [] => s.accepted ops
  | r :: rs => s.emit (.refused (r :: rs))

/-- IDLE: the host's next call is presented, if it makes one (R36); otherwise nothing happens (log 7). -/
def serveHost (s : State) : State :=
  match s.calls with
  | [] => s
  | ops :: rest => (s.withCalls rest).presented ops

/-! ### Issue, answer, return -/

/-- Issue (R144): the request `Transfer(TX)` on `XFER`, `PHASE <- EXCHANGE`. -/
def issue (s : State) : StepOutcome :=
  need .tx s.tx fun tx => .next (s.issued tx)

/-- The answer has arrived (R145, R146, R175): a reported failure aborts; bytes of another length than `TX` abort before
any parse; bytes of the right length start demultiplexing. -/
def takeAnswer (a : Answer) (s : State) : StepOutcome :=
  match a with
  | .fail e => .next (s.aborted (.transportFailure e))
  | .bytes rx =>
    need .tx s.tx fun tx =>
      if rx.length = tx.length then .next (s.answered rx)
      else .next (s.aborted (.protocolInvariantViolation tx.length rx.length))

/-- EXCHANGE: blocked until the transport answers, for ever if it never does (R54, R145; log 7). -/
def serveTransport (s : State) : StepOutcome :=
  match s.answers with
  | [] => .next s
  | a :: rest => takeAnswer a (s.withAnswers rest)

/-- Return (R149): `Results(RES)` on `RSP`, every working register released, `PHASE <- IDLE`. -/
def finish (s : State) : StepOutcome :=
  need .res s.res fun res => .next (s.emit (.results res)).released

/-- The end of a walk over the list: `IDX = k` (R27, R144, R149). -/
def atEnd (s : State) (k : State → StepOutcome) : StepOutcome :=
  need .ops s.ops fun ops => need .idx s.idx fun i =>
    if i = ops.length then k s else .fault .idxPastEnd

/-! ### The coordinator's own step -/

/-- A walk over the operation list runs in this phase (R27, R153). -/
def Phase.walks : Phase → Bool
  | .idle => false
  | .flatten => true
  | .exchange => false
  | .demux => true

/-- The operation at the block's program counter, `OPS[IDX]`, while a walk runs and the end is not reached
(R27, R143, R147). Operations are structured values, not bytes fetched from a memory (R60). -/
def fetched (s : State) : Option Instr :=
  if s.stage = .operational ∧ s.phase.walks = true then
    s.ops.bind fun ops => s.idx.bind fun i => ops[i]?
  else none

/-- The step when no operation is at the program counter (step table of 41_coordinator.md section 2; R182, R187). -/
def coordinate (s : State) : StepOutcome :=
  match s.stage with
  | .construction limits bus => .next (construct limits bus s)
  | .abandoned failed => .fault (.configurationError failed)
  | .operational =>
    match s.phase with
    | .idle => .next (serveHost s)
    | .flatten => atEnd s issue
    | .exchange => serveTransport s
    | .demux => atEnd s finish

/-! ### OPERATE as two functions and one comparison (R150) -/

/-- `flatten(ops)`: the payloads concatenated in order (R24, R150). -/
def flattenAll (ops : List Instr) : List Byte := (ops.map encode).flatten

/-- `demux(ops, rx)`: each operation parses its own slice, cut at the transmit lengths in order (R148, R150). R150 defines
it for a response of the length of `flatten(ops)`, and `outcomeOf` applies it to no other. On another length the function
is the model's (DESIGN CHOICE, log 28, safe): bytes after the last slice are not looked at, a Write whose slice is short
or empty is `absent`, and the whole is `none` where a Read's slice is short. -/
def demuxAll : List Instr → List Byte → Option (List Result)
  | [], _ => some []
  | i :: is, rx =>
    match parse i (rx.take (transmitLength i)), demuxAll is (rx.drop (transmitLength i)) with
    | some r, some rs => some (r :: rs)
    | _, _ => none

/-- The message on `RSP` that ends `OPERATE ops` when the transport gives this answer (R150). -/
def outcomeOf (ops : List Instr) (a : Answer) : Option Event :=
  match a with
  | .fail e => some (.abort (.transportFailure e))
  | .bytes rx =>
    if rx.length = (flattenAll ops).length then (demuxAll ops rx).map .results
    else some (.abort (.protocolInvariantViolation (flattenAll ops).length rx.length))

/-! ### Placing an operation where the next step runs it -/

/-- The state in which a transaction of this one operation has just been accepted by a constructed block
(R142; log 13). -/
def State.loaded (i : Instr) (s : State) : State :=
  (s.withStage .operational).accepted [i]

end Sys2Proof.Machine
end

