-- ==== Sys2Proof/Machine/Operation.lean ====
section
/-! DEFINITION. The Operation family: the meanings of READ (R111) and WRITE (R114). -/

namespace Sys2Proof.Machine

/-- `READ addr, N` (R111): the payload of R112 in FLATTEN, the parse of R113 in DEMUX. -/
def execRead (addr : Addr) (n : Nat) (s : State) : StepOutcome :=
  runOperation (readPayload addr n) (parseRead n) s

/-- `WRITE addr, data` (R114): the payload of R115 in FLATTEN, the parse of R116 in DEMUX. -/
def execWrite (addr : Addr) (data : List Byte) (s : State) : StepOutcome :=
  runOperation (writePayload addr data) parseWrite s

end Sys2Proof.Machine
end

