-- ==== Sys2Proof/Machine/Dispatch.lean ====
section
/-! DEFINITION. Dispatch: each operation to its meaning. -/

namespace Sys2Proof.Machine

def exec (i : Instr) (s : State) : Host.Outcome State Fault Refusal :=
  match i with
  | .read addr n => Sys2Proof.Machine.execRead addr n s
  | .write addr data => Sys2Proof.Machine.execWrite addr data s

end Sys2Proof.Machine
end

