-- ==== Sys2Proof/Machine/Step.lean ====
section
/-! DEFINITION. One step of the block (step table of 41_coordinator.md section 2). -/

namespace Sys2Proof.Machine

/-- One step: the operation at the program counter if there is one, otherwise the coordinator's own step. Deterministic
but for the inputs that State carries (the host's calls and the transport's answers). -/
def step (s : State) : Host.Outcome State Fault Refusal :=
  match fetched s with
  | some i => exec i s
  | none => coordinate s

/-- The state with a table word's operation placed where the next step runs it: a transaction of this one operation,
just accepted (R142; logs 13, 14). Words the decoder refuses place nothing. -/
def State.withFetchWord (s : State) (nbits w : Nat) : State :=
  match decodeTableWord nbits w with
  | some i => s.loaded i
  | none => s

end Sys2Proof.Machine
end

