-- ==== Sys2Proof/Machine/Errors.lean ====
section
/-! DEFINITION. The closed enumeration of error classes (R170, R171, D9) and which of them a recorded event is. -/

namespace Sys2Proof.Machine

/-- The five classes of R171's table. What each records stands in the event that reports it (`Event`, `Abort`). -/
inductive ErrorClass where
  /-- A bus parameter is unsupported; raised by the caller's environment at construction (R176 to R180). -/
  | configurationError
  /-- A transport capability flag is not recognised; raised by the caller's environment at construction (R181). -/
  | configurationWarning
  /-- The answer's length is not that of `TX`; raised by the coordinator after the exchange (R172). -/
  | protocolInvariantViolation
  /-- A Read's count is not its register's width, or an address is not enumerated; raised by nobody (R173). -/
  | callerContractViolation
  /-- The transport reports failure instead of bytes; passed on by the coordinator (R175). -/
  | transportFailure
deriving DecidableEq, Repr

/-- The column Kind of R171's table. -/
inductive ErrorKind where
  | fatalAtSetup
  | nonFatalLogged
  | fatalToTransaction
  | undefinedNotRaised
deriving DecidableEq, Repr

/-- The ordinal of a class, 0 to 4; it has no meaning on any interface (R171, D9). -/
def ErrorClass.ordinal : ErrorClass → Nat
  | .configurationError => 0
  | .configurationWarning => 1
  | .protocolInvariantViolation => 2
  | .callerContractViolation => 3
  | .transportFailure => 4

/-- The kind of a class (R170, R171). -/
def ErrorClass.kind : ErrorClass → ErrorKind
  | .configurationError => .fatalAtSetup
  | .configurationWarning => .nonFatalLogged
  | .protocolInvariantViolation => .fatalToTransaction
  | .callerContractViolation => .undefinedNotRaised
  | .transportFailure => .fatalToTransaction

/-- The class of an abort (R172, R175). -/
def Abort.errorClass : Abort → ErrorClass
  | .protocolInvariantViolation _ _ => .protocolInvariantViolation
  | .transportFailure _ => .transportFailure

/-- The class a recorded event reports. A refusal reports none: it is not an error of the block (R187), though a bad
address is one of the two cases of `CallerContractViolation` (R173). -/
def Event.errorClass : Event → Option ErrorClass
  | .transfer _ => none
  | .results _ => none
  | .abort e => some e.errorClass
  | .refused _ => none
  | .configurationError _ => some .configurationError
  | .configurationWarning _ => some .configurationWarning

end Sys2Proof.Machine
end

