-- ==== Sys2Proof/Machine/Text.lean ====
section
/-! DEFINITION. The text form of operations and transactions (R95, R96; D18). It carries exactly the raw operations:
whether a list is well-formed is judged when it is presented (95_test_vectors.md group V7). Lexical points the grammar
leaves open are in log 24. -/

namespace Sys2Proof.Machine

/-- The two register names the source gives (R96). -/
inductive RegName where
  | current
  | shuntCal
deriving DecidableEq, Repr

/-- `CURRENT` is 0x07 and `SHUNT_CAL` is 0x02 (R95). -/
def RegName.addr : RegName → Addr
  | .current => 0x07
  | .shuntCal => 0x02

/-- The tokens of the grammar of R95. -/
inductive Token where
  | operate
  | openBrace
  | closeBrace
  | newline
  | semicolon
  | comma
  | openBracket
  | closeBracket
  | read
  | write
  | hex (n : Nat)
  | dec (n : Nat)
  | name (r : RegName)
deriving DecidableEq, Repr

/-- Where the reading of a transaction stands; `done` holds the operations read so far. -/
inductive Reading where
  | start
  | header
  | ready (done : List Instr) (mayClose : Bool)
  | readAddr (done : List Instr)
  | readComma (done : List Instr) (a : Addr)
  | readCount (done : List Instr) (a : Addr)
  | writeAddr (done : List Instr)
  | writeComma (done : List Instr) (a : Addr)
  | writeOpen (done : List Instr) (a : Addr)
  | firstByte (done : List Instr) (a : Addr)
  | nextByte (done : List Instr) (a : Addr) (bytes : List Byte)
  | afterByte (done : List Instr) (a : Addr) (bytes : List Byte)
  | afterOp (done : List Instr)
  | closed (done : List Instr)
deriving DecidableEq, Repr

/-- An address token: a hexadecimal numeral of 6 bits or one of the two names (R95; an address of 64 or more cannot be
written, V7.8). -/
def addrToken : Token → Option Addr
  | .hex n => if n < 64 then some (BitVec.ofNat 6 n) else none
  | .name r => some r.addr
  | _ => none

/-- A byte token: a hexadecimal numeral 0x00 to 0xFF (R95). -/
def byteToken : Token → Option Byte
  | .hex n => if n < 256 then some (BitVec.ofNat 8 n) else none
  | _ => none

/-- One token of the grammar of R95. Beyond the grammar it takes newlines before `OPERATE`, after the opening brace, before
and after the closing brace, several in a row between operations, and after a `;`; it refuses a newline between `OPERATE`
and its brace, a `;` after a newline and a `;` before the closing brace (DESIGN CHOICE, log 24). -/
def readToken (p : Reading) (t : Token) : Option Reading :=
  match p with
  | .start =>
    match t with
    | .operate => some .header
    | .newline => some .start
    | _ => none
  | .header =>
    match t with
    | .openBrace => some (.ready [] true)
    | _ => none
  | .ready done mayClose =>
    match t with
    | .newline => some (.ready done mayClose)
    | .read => some (.readAddr done)
    | .write => some (.writeAddr done)
    | .closeBrace => if mayClose then some (.closed done) else none
    | _ => none
  | .readAddr done => (addrToken t).map (.readComma done)
  | .readComma done a =>
    match t with
    | .comma => some (.readCount done a)
    | _ => none
  | .readCount done a =>
    match t with
    | .dec n => some (.afterOp (done ++ [.read a n]))
    | _ => none
  | .writeAddr done => (addrToken t).map (.writeComma done)
  | .writeComma done a =>
    match t with
    | .comma => some (.writeOpen done a)
    | _ => none
  | .writeOpen done a =>
    match t with
    | .openBracket => some (.firstByte done a)
    | _ => none
  | .firstByte done a =>
    if t = .closeBracket then some (.afterOp (done ++ [.write a []]))
    else (byteToken t).map fun b => .afterByte done a [b]
  | .nextByte done a bytes => (byteToken t).map fun b => .afterByte done a (bytes ++ [b])
  | .afterByte done a bytes =>
    match t with
    | .comma => some (.nextByte done a bytes)
    | .closeBracket => some (.afterOp (done ++ [.write a bytes]))
    | _ => none
  | .afterOp done =>
    match t with
    | .semicolon => some (.ready done false)
    | .newline => some (.ready done true)
    | .closeBrace => some (.closed done)
    | _ => none
  | .closed done =>
    match t with
    | .newline => some (.closed done)
    | _ => none

/-- The reading after a run of tokens. -/
def readTokens : Reading → List Token → Option Reading
  | p, [] => some p
  | p, t :: ts => (readToken p t).bind fun q => readTokens q ts

/-- The operation list a transaction's tokens stand for; none if they are no transaction of the grammar. -/
def parseTransaction (ts : List Token) : Option (List Instr) :=
  match readTokens .start ts with
  | some (.closed ops) => some ops
  | _ => none

/-! ### From operations to tokens -/

/-- The bytes of a Write between its brackets, separated by commas. -/
def byteTokens : List Byte → List Token
  | [] => []
  | [b] => [.hex b.toNat]
  | b :: c :: bs => .hex b.toNat :: .comma :: byteTokens (c :: bs)

/-- One operation's text. -/
def opTokens : Instr → List Token
  | .read a n => [.read, .hex a.toNat, .comma, .dec n]
  | .write a data => [.write, .hex a.toNat, .comma, .openBracket] ++ byteTokens data ++ [.closeBracket]

/-- Operations separated by semicolons. -/
def opsTokens : List Instr → List Token
  | [] => []
  | [i] => opTokens i
  | i :: j :: is => opTokens i ++ .semicolon :: opsTokens (j :: is)

/-- A transaction's text on one line. -/
def transactionTokens (ops : List Instr) : List Token :=
  [.operate, .openBrace] ++ opsTokens ops ++ [.closeBrace]

/-! ### From characters to tokens -/

/-- The value of a digit of the base. -/
def digit (base : Nat) (c : Char) : Option Nat :=
  let n := c.toNat
  let v :=
    if 48 ≤ n ∧ n ≤ 57 then some (n - 48)
    else if 65 ≤ n ∧ n ≤ 70 then some (n - 55)
    else if 97 ≤ n ∧ n ≤ 102 then some (n - 87)
    else none
  v.filter (· < base)

/-- A numeral of one or more digits. -/
def numeral (base : Nat) : Nat → List Char → Option Nat
  | v, [] => some v
  | v, c :: cs => (digit base c).bind fun d => numeral base (base * v + d) cs

/-- A word of the text. -/
def wordToken (w : List Char) : Option Token :=
  if w = ['O', 'P', 'E', 'R', 'A', 'T', 'E'] then some .operate
  else if w = ['R', 'E', 'A', 'D'] then some .read
  else if w = ['W', 'R', 'I', 'T', 'E'] then some .write
  else if w = ['C', 'U', 'R', 'R', 'E', 'N', 'T'] then some (.name .current)
  else if w = ['S', 'H', 'U', 'N', 'T', '_', 'C', 'A', 'L'] then some (.name .shuntCal)
  else match w with
    | '0' :: 'x' :: c :: cs => (numeral 16 0 (c :: cs)).map .hex
    | c :: cs => (numeral 10 0 (c :: cs)).map .dec
    | [] => none

/-- A character that is a token by itself; the braces are named by their code points 123 and 125. -/
def charToken (c : Char) : Option Token :=
  if c = ',' then some .comma
  else if c = ';' then some .semicolon
  else if c = '[' then some .openBracket
  else if c = ']' then some .closeBracket
  else if c.toNat = 123 then some .openBrace
  else if c.toNat = 125 then some .closeBrace
  else if c.toNat = 10 then some .newline
  else none

/-- The token of the word collected so far, in front of the tokens that follow. -/
def flushWord (w : List Char) (rest : Option (List Token)) : Option (List Token) :=
  match w with
  | [] => rest
  | c :: cs => (wordToken (c :: cs)).bind fun t => rest.map (t :: ·)

/-- The tokens of a text; blanks separate words. -/
def tokenize : List Char → List Char → Option (List Token)
  | w, [] => flushWord w (some [])
  | w, c :: cs =>
    if c = ' ' ∨ c.toNat = 9 ∨ c.toNat = 13 then flushWord w (tokenize [] cs)
    else match charToken c with
      | some t => flushWord w ((tokenize [] cs).map (t :: ·))
      | none => tokenize (w ++ [c]) cs

/-- The operation list a text stands for (R95). -/
def assemble (text : List Char) : Option (List Instr) :=
  (tokenize [] text).bind parseTransaction

/-! ### From tokens to characters -/

/-- The character of a digit below 16, letters in upper case. -/
def digitChar (v : Nat) : Char := if v < 10 then Char.ofNat (48 + v) else Char.ofNat (55 + v)

/-- The digits of a natural number in the base, most significant first; the first argument bounds their number. -/
def digitChars (base : Nat) : Nat → Nat → List Char
  | 0, _ => []
  | fuel + 1, n =>
    if n < base then [digitChar n] else digitChars base fuel (n / base) ++ [digitChar (n % base)]

/-- The characters of a token (R95, R96). -/
def tokenChars : Token → List Char
  | .operate => ['O', 'P', 'E', 'R', 'A', 'T', 'E']
  | .openBrace => [Char.ofNat 123]
  | .closeBrace => [Char.ofNat 125]
  | .newline => [Char.ofNat 10]
  | .semicolon => [';']
  | .comma => [',']
  | .openBracket => ['[']
  | .closeBracket => [']']
  | .read => ['R', 'E', 'A', 'D']
  | .write => ['W', 'R', 'I', 'T', 'E']
  | .hex n => '0' :: 'x' :: digitChars 16 (n + 1) n
  | .dec n => digitChars 10 (n + 1) n
  | .name .current => ['C', 'U', 'R', 'R', 'E', 'N', 'T']
  | .name .shuntCal => ['S', 'H', 'U', 'N', 'T', '_', 'C', 'A', 'L']

/-- A text for the tokens, with a blank after each. -/
def textOf : List Token → List Char
  | [] => []
  | t :: ts => tokenChars t ++ ' ' :: textOf ts

end Sys2Proof.Machine
end

