-- ==== Sys2Proof/Safety.lean ====
section
/-! DEFINITION. What claims are stated in: registers without a value (R32), the invariant of the working registers
(R31), the launch premises (R205), the caller contract (R173), and the absence of a recorded fault (R192). -/

namespace Sys2Proof.Machine

/-! ### Runs -/

/-- `n` steps, stopping at the first fault or refusal. -/
def steps : Nat → State → StepOutcome
  | 0, s => .next s
  | n + 1, s =>
    match step s with
    | .next t => steps n t
    | .fault f => .fault f
    | .refused r => .refused r

/-! ### Registers without a value (R32, D14) -/

/-- The working register holds no value. -/
def State.lacks (s : State) : Reg → Bool
  | .ops => s.ops.isNone
  | .idx => s.idx.isNone
  | .tx => s.tx.isNone
  | .len => s.len.isNone
  | .rx => s.rx.isNone
  | .cur => s.cur.isNone
  | .res => s.res.isNone

/-- Of the registers a rule reads, if some hold no value the outcome is the fault that names one of those. Which one,
where there are several, is left open: the order of the reads is the model's (log 26). -/
def FaultsOnMissing (s : State) (reads : List Reg) (o : StepOutcome) : Prop :=
  (∃ r ∈ reads, s.lacks r = true) → ∃ r ∈ reads, s.lacks r = true ∧ o = .fault (.noValue r)

/-- The walk over the list has reached its end, `IDX = k` (R27, R144, R149). -/
def WalkEnded (s : State) : Prop := ∃ ops, s.ops = some ops ∧ s.idx = some ops.length

/-! ### The working registers' invariant (R31, R43) -/

/-- No working register holds a value (R32, R43). -/
def NoValues (s : State) : Prop :=
  s.ops = none ∧ s.idx = none ∧ s.tx = none ∧ s.len = none ∧ s.rx = none ∧ s.cur = none ∧ s.res = none

/-- FLATTEN: the first `IDX` operations are in `TX` and `LEN`, nothing has been received (R24, R25, R31). -/
def FlattenInv (s : State) : Prop :=
  ∃ ops n, transactionWellFormed s.cap ops = true ∧ n ≤ ops.length ∧ s.ops = some ops ∧ s.idx = some n
    ∧ s.tx = some (flattenAll (ops.take n)) ∧ s.len = some ((ops.take n).map transmitLength)
    ∧ s.rx = none ∧ s.cur = none ∧ s.res = some []

/-- EXCHANGE: every operation is in `TX` and `LEN`, nothing has been received (R24, R25, R31). -/
def ExchangeInv (s : State) : Prop :=
  ∃ ops, transactionWellFormed s.cap ops = true ∧ s.ops = some ops ∧ s.idx = some ops.length
    ∧ s.tx = some (flattenAll ops) ∧ s.len = some (ops.map transmitLength)
    ∧ s.rx = none ∧ s.cur = none ∧ s.res = some []

/-- DEMUX: the response has the length of `TX`, the cursor is the sum of the first `IDX` lengths, and `RES` holds the
results of the first `IDX` operations (R28, R29, R31). -/
def DemuxInv (s : State) : Prop :=
  ∃ ops n rx res, transactionWellFormed s.cap ops = true ∧ n ≤ ops.length ∧ s.ops = some ops ∧ s.idx = some n
    ∧ s.tx = some (flattenAll ops) ∧ s.len = some (ops.map transmitLength)
    ∧ s.rx = some rx ∧ rx.length = (flattenAll ops).length
    ∧ s.cur = some ((ops.take n).map transmitLength).sum
    ∧ s.res = some res ∧ demuxAll (ops.take n) rx = some res

/-- The limits a configuration is checked against are legal (00_scope.md parameter table), and a block is abandoned for
at least one failed constraint (R188). -/
def Stage.legal : Stage → Bool
  | .construction limits _ => limits.legal
  | .operational => true
  | .abandoned failed => !failed.isEmpty

/-- The OPEN parameters are within the parameter table of 00_scope.md (R6). -/
def ParametersLegal (s : State) : Prop := s.cap.legal = true ∧ s.stage.legal = true

/-- The invariant of the machine: the OPEN parameters are legal (R6, D8, D11, D12), a block that is not operational is
in IDLE, and the working registers are as R31 and R43 say for the phase. -/
def Invariant (s : State) : Prop :=
  ParametersLegal s ∧ (s.stage ≠ .operational → s.phase = .idle) ∧
    match s.phase with
    | .idle => NoValues s
    | .flatten => FlattenInv s
    | .exchange => ExchangeInv s
    | .demux => DemuxInv s

/-! ### Launch premises (R205) -/

/-- `CONFIG_OK`: construction has succeeded (R203 step 2). -/
def ConfigOk (s : State) : Prop := s.stage = .operational

/-- `IDLE_AT_START`: `PHASE = IDLE` and no working register holds a value. -/
def IdleAtStart (s : State) : Prop := s.phase = .idle ∧ NoValues s

/-- `OPS_WELL_FORMED`: the list the host presents next is a well-formed transaction (R12). -/
def OpsWellFormed (s : State) : Prop := ∀ ops rest, s.calls = ops :: rest → transactionWellFormed s.cap ops = true

/-- `WIDTHS_TRUE`: every Read's count is the true width of its register, for an assignment of widths the core does not
know (R62, R173, R208). Only claims about what register contents mean need it. -/
def WidthsTrue (width : Addr → Nat) (ops : List Instr) : Prop := ∀ a n, Instr.read a n ∈ ops → n = width a

/-- `CallerContractViolation` in either of its two cases (R173): a Read's count is not its register's width, which the
core cannot know, or an address is not enumerated, which a model refuses before acceptance. No event reports it. -/
def CallerContractViolated (width : Addr → Nat) (ops : List Instr) : Prop :=
  (∃ a n, Instr.read a n ∈ ops ∧ n ≠ width a) ∨ ∃ i ∈ ops, Addr.valid i.addr = false

/-! ### The history (R192) -/

/-- The event is the request `Transfer(tx)` on `XFER`. -/
def Event.isTransfer : Event → Bool
  | .transfer _ => true
  | .results _ => false
  | .abort _ => false
  | .refused _ => false
  | .configurationError _ => false
  | .configurationWarning _ => false

/-- The event is `Results(res)` on `RSP`. -/
def Event.isResults : Event → Bool
  | .transfer _ => false
  | .results _ => true
  | .abort _ => false
  | .refused _ => false
  | .configurationError _ => false
  | .configurationWarning _ => false

/-- The event records that something went wrong: an abort, a refusal or a failed construction. -/
def Event.isFault : Event → Bool
  | .transfer _ => false
  | .results _ => false
  | .abort _ => true
  | .refused _ => true
  | .configurationError _ => true
  | .configurationWarning _ => false

/-- No fault has been recorded, the premise R192 speaks of. -/
def NoFaultRecorded (s : State) : Prop := ∀ e ∈ s.history, e.isFault = false

end Sys2Proof.Machine
end

