-- ==== Sys2Proof/Certificates/Slice0/Obligations.lean ====
section
/-! DEFINITION. The statements for the provers. A docstring names the rule a statement formalises; a statement about
every state that could fail in states no run reaches carries the invariant `Invariant` as a premise, which
`InvariantPreserved` and `ResetMeetsInvariant` state on their own. -/

open Sys2Proof Sys2Proof.Machine

/-! ### Constants, control byte, payloads -/

/-- R5, R6: the constants and the set of valid register addresses. -/
def Obligations.ConstantsOfTheCore : Prop :=
  Config.addressOffset = 2 ∧ Config.flagOffset = 0 ∧ Config.wordBitCount = 8 ∧ Config.filler = 0xFF
    ∧ Config.flagRead = 1 ∧ Config.flagWrite = 0 ∧ Config.validAddr.length = 20
    ∧ ∀ a : Addr, a ∈ Config.validAddr ↔ a.toNat ≤ 0x11 ∨ a = 0x3E ∨ a = 0x3F

/-- R82, R110: the control byte, as the OR, as the sum, and field by field; its corner cases and example. -/
def Obligations.ControlByteFormula : Prop :=
  (∀ (a : Addr) (f : Flag),
    (controlByte a f).toNat = (a.toNat <<< 2) ||| f.toNat
      ∧ (controlByte a f).toNat = 4 * a.toNat + f.toNat
      ∧ (controlByte a f).extractLsb' 2 6 = a
      ∧ (controlByte a f).extractLsb' 1 1 = 0
      ∧ (controlByte a f).extractLsb' 0 1 = f
      ∧ (controlByte a f).toNat ≤ 0xFD)
    ∧ controlByte 0x00 0 = 0x00 ∧ controlByte 0x3F 1 = 0xFD ∧ controlByte 0x07 1 = 0x1D

/-- R83, R112: the payload of a Read. -/
def Obligations.ReadPayloadBytes : Prop :=
  (∀ (addr : Addr) (n : Nat),
    encode (.read addr n) = BitVec.ofNat 8 (4 * addr.toNat + 1) :: List.replicate n 0xFF
      ∧ transmitLength (.read addr n) = 1 + n)
    ∧ encode (.read 0x3F 2) = [0xFD, 0xFF, 0xFF]

/-- R84, R115: the payload of a Write, its data verbatim. -/
def Obligations.WritePayloadBytes : Prop :=
  (∀ (addr : Addr) (data : List Byte),
    encode (.write addr data) = BitVec.ofNat 8 (4 * addr.toNat) :: data
      ∧ transmitLength (.write addr data) = 1 + data.length)
    ∧ encode (.write 0x00 [0x40, 0x00]) = [0x00, 0x40, 0x00]

/-- 30_encoding.md section 3: no two (address, variant) pairs share a control byte (an inference the spec marks as its
own). -/
def Obligations.ControlBytesDistinct : Prop :=
  ∀ (a b : Addr) (f g : Flag), controlByte a f = controlByte b g → a = b ∧ f = g

/-! ### Decoding -/

/-- For every well-formed operation, the decoder reads back what the encoder wrote (30_encoding.md sections 1 and 3). -/
def Obligations.DecodeEncodeRoundTrip : Prop :=
  ∀ (cap : Capacity) (i : Instr), i.wellFormed cap = true → decode (encode i) = .ok i

/-- Whatever bytes the decoder accepts are the payload of the operation it answers, whose address is valid and whose
count, for a Read, is at least one. This is the model's decoder, DEDUCED from R83, R91, R93 and R94 (log 15): the core
never decodes a control byte, and the spec does not say what a decoder does with a byte other than the filler, or with
nothing, after a Read's control byte. -/
def Obligations.DecodedBytesAreThePayload : Prop :=
  ∀ (bytes : List Byte) (i : Instr), decode bytes = .ok i →
    encode i = bytes ∧ i.wellFormed Capacity.unbounded = true

/-- Reserved patterns are refused by name (30_encoding.md section 4; the decoder is the model's, log 15). -/
def Obligations.ReservedPatternsRefused : Prop :=
  decode [] = .error .noControlByte
    ∧ (∀ (c : Byte) (rest : List Byte), c.extractLsb' 1 1 ≠ 0 → decode (c :: rest) = .error .reservedBit)
    ∧ (∀ (c : Byte) (rest : List Byte), c.extractLsb' 1 1 = 0 → c.extractLsb' 2 6 ∉ Config.validAddr →
        decode (c :: rest) = .error (.reservedAddress (c.extractLsb' 2 6)))
    ∧ (∀ a ∈ Config.validAddr, decode [controlByte a 1] = .error .zeroWidthRead)
    ∧ (∀ a ∈ Config.validAddr, ∀ rest : List Byte, (∃ b ∈ rest, b ≠ 0xFF) →
        decode (controlByte a 1 :: rest) = .error .notFiller)
    ∧ (∀ a ∈ Config.validAddr, ∀ (n : Nat), 1 ≤ n →
        decode (controlByte a 1 :: List.replicate n 0xFF) = .ok (.read a n))
    ∧ (∀ a ∈ Config.validAddr, ∀ rest : List Byte, decode (controlByte a 0 :: rest) = .ok (.write a rest))

/-- 30_encoding.md section 5: the transmit buffer of a well-formed transaction decodes back to the transaction, given
the recorded lengths. -/
def Obligations.BufferDecodesWithLengths : Prop :=
  ∀ (cap : Capacity) (ops : List Instr), transactionWellFormed cap ops = true →
    decodeBuffer (ops.map transmitLength) (flattenAll ops) = some ops

/-- Words written out from the spec's encodings (30_encoding.md section 3 table; 95_test_vectors.md V2, V4), and the two
words of the opcode table: in the last two clauses the completion of a table word, one FILLER for a Read and nothing for
a Write, is the model's choice (DESIGN CHOICE, log 14). -/
def Obligations.SampleWordsDecode : Prop :=
  decode [0x1D, 0xFF, 0xFF, 0xFF] = .ok (.read 0x07 3)
    ∧ decode [0xFD, 0xFF, 0xFF] = .ok (.read 0x3F 2)
    ∧ decode [0x08, 0x12, 0x34] = .ok (.write 0x02 [0x12, 0x34])
    ∧ decode [0x2C] = .ok (.write 0x0B [])
    ∧ decode [0xF8, 0xFF] = .ok (.write 0x3E [0xFF])
    ∧ decodeTableWord 8 0x01 = some (.read 0x00 1)
    ∧ decodeTableWord 8 0x00 = some (.write 0x00 [])

/-- 30_encoding.md section 6, at the level of tokens: the tokens written for a list of operations read back as the same
list. The grammar there admits the lists that are well-formed transactions; that every other list (empty, an address
outside VALID_ADDR, a count of 0) is read as well is the model's choice (DESIGN CHOICE, log 24). -/
def Obligations.TokensReadBack : Prop :=
  ∀ ops : List Instr, parseTransaction (transactionTokens ops) = some ops

/-! ### Parsing the response -/

/-- R113: the parse of a Read drops the first byte and folds the others, whatever the address; it is not applied to a
slice of another length; the source's example. -/
def Obligations.ReadParseFoldsTrailingBytes : Prop :=
  (∀ (addr : Addr) (c : Byte) (data : List Byte),
    parse (.read addr data.length) (c :: data) = some (.value (data.foldl (fun r b => (r <<< 8) ||| b.toNat) 0)))
    ∧ (∀ (addr : Addr) (n : Nat) (s : List Byte), s.length ≠ 1 + n → parse (.read addr n) s = none)
    ∧ ∀ addr : Addr, parse (.read addr 2) [0xFF, 0x01, 0x02] = some (.value 258)

/-- R57: big-endian, the first data byte the most significant. -/
def Obligations.ReadResultIsBigEndian : Prop :=
  ∀ (addr : Addr) (c : Byte) (d : List Byte),
    parse (.read addr d.length) (c :: d)
      = some (.value (∑ j : Fin d.length, d[j].toNat * 256 ^ (d.length - 1 - j.val)))

/-- 40_operation.md section 5: the fold is a bijection between N bytes and the naturals below `256^N` (an inference the
spec marks as its own). -/
def Obligations.FoldIsBijective : Prop :=
  (∀ s : List Byte, fold s < 256 ^ s.length)
    ∧ (∀ s t : List Byte, s.length = t.length → fold s = fold t → s = t)
    ∧ ∀ n v : Nat, v < 256 ^ n → ∃ s : List Byte, s.length = n ∧ fold s = v

/-- R116: the parse of a Write is absent for every slice, and absent is no value. -/
def Obligations.WriteParseIsAbsent : Prop :=
  (∀ (addr : Addr) (data s : List Byte), parse (.write addr data) s = some .absent)
    ∧ ∀ v : Nat, Result.absent ≠ .value v

/-! ### The two instructions -/

/-- R111: what READ does at list position `i`, in FLATTEN and in DEMUX, with `o = LEN[0] + ... + LEN[i-1]`; everything
else in the state is unchanged. -/
def Obligations.ReadMeaning : Prop :=
  ∀ (addr : Addr) (n : Nat) (s : State) (i : Nat) (tx : List Byte) (len : List Nat),
    s.idx = some i → s.tx = some tx → s.len = some len →
    (s.phase = .flatten →
      exec (.read addr n) s = .next
        { s with
          tx := some (tx ++ BitVec.ofNat 8 (4 * addr.toNat + 1) :: List.replicate n 0xFF),
          len := some (len ++ [1 + n]), idx := some (i + 1) })
    ∧ (∀ (rx : List Byte) (res : List Result), s.phase = .demux → s.rx = some rx → s.res = some res →
        s.cur = some (len.take i).sum → len[i]? = some (1 + n) → (len.take i).sum + (1 + n) ≤ rx.length →
      exec (.read addr n) s = .next
        { s with
          res := some (res ++ [.value (fold ((rx.drop ((len.take i).sum + 1)).take n))]),
          cur := some ((len.take i).sum + (1 + n)), idx := some (i + 1) })

/-- R114: what WRITE does at list position `i`, in FLATTEN and in DEMUX; everything else in the state is unchanged. -/
def Obligations.WriteMeaning : Prop :=
  ∀ (addr : Addr) (data : List Byte) (s : State) (i : Nat) (tx : List Byte) (len : List Nat),
    s.idx = some i → s.tx = some tx → s.len = some len →
    (s.phase = .flatten →
      exec (.write addr data) s = .next
        { s with
          tx := some (tx ++ BitVec.ofNat 8 (4 * addr.toNat) :: data),
          len := some (len ++ [1 + data.length]), idx := some (i + 1) })
    ∧ (∀ (rx : List Byte) (res : List Result), s.phase = .demux → s.rx = some rx → s.res = some res →
        s.cur = some (len.take i).sum → len[i]? = some (1 + data.length) →
      exec (.write addr data) s = .next
        { s with
          res := some (res ++ [.absent]),
          cur := some ((len.take i).sum + (1 + data.length)), idx := some (i + 1) })

/-- The frame of READ and WRITE: the phase, the list, the response, the parameters, the inputs and the history are
unchanged; in FLATTEN also CUR and RES, in DEMUX also TX and LEN (10_state.md section 2, column Written by). -/
def Obligations.OperationFrame : Prop :=
  ∀ (i : Instr) (s t : State), exec i s = .next t →
    t.stage = s.stage ∧ t.cap = s.cap ∧ t.phase = s.phase ∧ t.ops = s.ops ∧ t.rx = s.rx
      ∧ t.calls = s.calls ∧ t.answers = s.answers ∧ t.history = s.history
      ∧ (s.phase = .flatten → t.cur = s.cur ∧ t.res = s.res)
      ∧ (s.phase = .demux → t.tx = s.tx ∧ t.len = s.len)

/-- Outside the two walks an operation has no meaning and stops by name (the model's choice, log 16). -/
def Obligations.OperationOutsideWalkStops : Prop :=
  ∀ (i : Instr) (s : State),
    (s.phase = .idle → exec i s = .refused (.outsideTransaction .idle))
      ∧ (s.phase = .exchange → exec i s = .refused (.outsideTransaction .exchange))

/-- A Read's slice of another length is refused, never parsed (92_eei_decisions.md D21). -/
def Obligations.ReadOfOtherSliceLengthRefused : Prop :=
  ∀ (addr : Addr) (n : Nat) (s : State) (i l cur : Nat) (len : List Nat) (rx : List Byte) (res : List Result),
    s.phase = .demux → s.idx = some i → s.len = some len → s.rx = some rx → s.cur = some cur → s.res = some res →
    len[i]? = some l → min l (rx.length - cur) ≠ 1 + n →
      exec (.read addr n) s = .refused (.sliceLength (min l (rx.length - cur)))

/-- Reading a working register that holds no value is a model fault, never zero (92_eei_decisions.md D14): an operation
in FLATTEN and in DEMUX, a walk that looks for its next operation, issue, the length check on an answer, and return. Where
several registers are missing the fault names one of them: the order of the reads is the model's and is left open here
(log 26). -/
def Obligations.RegisterWithoutValueFaults : Prop :=
  ∀ s : State,
    (∀ i : Instr, s.phase = .flatten → FaultsOnMissing s [.idx, .tx, .len] (exec i s))
      ∧ (∀ i : Instr, s.phase = .demux → FaultsOnMissing s [.idx, .len, .rx, .cur, .res] (exec i s))
      ∧ (s.stage = .operational → s.phase = .flatten ∨ s.phase = .demux → FaultsOnMissing s [.ops, .idx] (step s))
      ∧ (s.stage = .operational → s.phase = .flatten → WalkEnded s → FaultsOnMissing s [.tx] (step s))
      ∧ (s.stage = .operational → s.phase = .exchange →
          ∀ (rx : List Byte) (rest : List Answer), s.answers = .bytes rx :: rest → FaultsOnMissing s [.tx] (step s))
      ∧ (s.stage = .operational → s.phase = .demux → WalkEnded s → FaultsOnMissing s [.res] (step s))

/-! ### The step and the program counter -/

/-- A step runs the operation at the program counter, `OPS[IDX]`, and adds nothing around it (10_state.md section 2,
IDX; 41_coordinator.md section 2). -/
def Obligations.StepRunsFetchedOperation : Prop :=
  ∀ (s : State) (ops : List Instr) (n : Nat) (i : Instr),
    s.stage = .operational → s.phase = .flatten ∨ s.phase = .demux →
    s.ops = some ops → s.idx = some n → ops[n]? = some i → step s = exec i s

/-- A table word that decodes to an operation is what the next step runs, and that step answers a next state
(the model's way of placing an operation, log 13). -/
def Obligations.StepRunsPlacedWord : Prop :=
  ∀ (s : State) (nbits w : Nat) (i : Instr), decodeTableWord nbits w = some i →
    step (s.withFetchWord nbits w) = exec i (s.withFetchWord nbits w)
      ∧ step (s.withFetchWord nbits w) = .next
          { s with
            stage := .operational, phase := .flatten, ops := some [i], idx := some 1, tx := some (encode i),
            len := some [transmitLength i], res := some [] }

/-! ### The coordinator, step by step -/

/-- R142: accept. -/
def Obligations.AcceptStartsFlattening : Prop :=
  ∀ (s : State) (ops : List Instr) (rest : List (List Instr)),
    s.stage = .operational → s.phase = .idle → s.calls = ops :: rest → transactionWellFormed s.cap ops = true →
    step s = .next
      { s with
        calls := rest, ops := some ops, idx := some 0, tx := some [], len := some [], res := some [],
        phase := .flatten }

/-- An ill-formed list is refused with every reason that holds, nothing is sent and PHASE stays IDLE (30_encoding.md
section 4, the spec's decisions D4, D5, D6, D8; the recording of all reasons is the model's choice, log 3). -/
def Obligations.IllFormedListRefused : Prop :=
  ∀ (s : State) (ops : List Instr) (rest : List (List Instr)),
    s.stage = .operational → s.phase = .idle → s.calls = ops :: rest → transactionWellFormed s.cap ops = false →
    ∃ reasons : List IllFormed, reasons ≠ []
      ∧ step s = .next { s with calls := rest, history := s.history ++ [.refused reasons] }
      ∧ (IllFormed.emptyTransaction ∈ reasons ↔ ops = [])
      ∧ (IllFormed.badAddress ∈ reasons ↔ ∃ i ∈ ops, i.addr ∉ Config.validAddr)
      ∧ (IllFormed.zeroWidthRead ∈ reasons ↔ ∃ a, Instr.read a 0 ∈ ops)
      ∧ (IllFormed.tooLong ∈ reasons ↔
          (∃ m, s.cap.maxOps = some m ∧ m < ops.length)
            ∨ (∃ m a n, s.cap.maxN = some m ∧ Instr.read a n ∈ ops ∧ m < n)
            ∨ (∃ m a d, s.cap.maxData = some m ∧ Instr.write a d ∈ ops ∧ m < d.length)
            ∨ ∃ m, s.cap.maxTx = some m ∧ m < (flattenAll ops).length)

/-- R143: a flatten step, which cannot fail in a state that meets the invariant. -/
def Obligations.FlattenStepAppendsPayload : Prop :=
  ∀ (s : State) (ops : List Instr) (n : Nat) (i : Instr), Invariant s →
    s.phase = .flatten → s.ops = some ops → s.idx = some n → ops[n]? = some i →
    ∃ (tx : List Byte) (len : List Nat), s.tx = some tx ∧ s.len = some len
      ∧ step s = .next
          { s with tx := some (tx ++ encode i), len := some (len ++ [(encode i).length]), idx := some (n + 1) }

/-- Issue, once the list is flattened: the request carries the whole buffer, the concatenated payloads
(41_coordinator.md section 2). -/
def Obligations.IssueSendsTheBuffer : Prop :=
  ∀ (s : State) (ops : List Instr), Invariant s →
    s.phase = .flatten → s.ops = some ops → s.idx = some ops.length →
    s.tx = some (ops.map encode).flatten
      ∧ step s = .next
          { s with phase := .exchange, history := s.history ++ [.transfer (ops.map encode).flatten] }

/-- Where the core has no step nothing changes, in however many steps: in EXCHANGE with no answer, where the call hangs,
and in IDLE with no call (20_memory.md section 1; 10_state.md section 5; the step that changes nothing is the model's
choice, DESIGN CHOICE, log 7). -/
def Obligations.WaitingChangesNothing : Prop :=
  ∀ (s : State) (n : Nat), s.stage = .operational →
    (s.phase = .exchange → s.answers = [] → steps n s = .next s)
      ∧ (s.phase = .idle → s.calls = [] → steps n s = .next s)

/-- R146: the length check on the answer, before any parse. -/
def Obligations.LengthCheckBeforeParsing : Prop :=
  ∀ (s : State) (tx rx : List Byte) (rest : List Answer),
    s.stage = .operational → s.phase = .exchange → s.tx = some tx → s.answers = .bytes rx :: rest →
    step s = .next
      (if rx.length = tx.length then
        { s with answers := rest, rx := some rx, cur := some 0, idx := some 0, phase := .demux }
      else
        { s with
          answers := rest, phase := .idle, ops := none, idx := none, tx := none, len := none, rx := none,
          cur := none, res := none,
          history := s.history ++ [.abort (.protocolInvariantViolation tx.length rx.length)] })

/-- A reported failure aborts the call (60_exceptions.md section 1; the spec's decision D16). -/
def Obligations.TransportFailureAborts : Prop :=
  ∀ (s : State) (e : FailureReport) (rest : List Answer),
    s.stage = .operational → s.phase = .exchange → s.answers = .fail e :: rest →
    step s = .next
      { s with
        answers := rest, phase := .idle, ops := none, idx := none, tx := none, len := none, rx := none,
        cur := none, res := none, history := s.history ++ [.abort (.transportFailure e)] }

/-- R147: a demultiplex step, which cannot fail in a state that meets the invariant. -/
def Obligations.DemultiplexStepParsesOneSlice : Prop :=
  ∀ (s : State) (ops : List Instr) (n : Nat) (i : Instr), Invariant s →
    s.phase = .demux → s.ops = some ops → s.idx = some n → ops[n]? = some i →
    ∃ (rx : List Byte) (len : List Nat) (cur l : Nat) (res : List Result) (r : Result),
      s.rx = some rx ∧ s.len = some len ∧ s.cur = some cur ∧ s.res = some res ∧ len[n]? = some l
        ∧ parse i ((rx.drop cur).take l) = some r
        ∧ step s = .next { s with res := some (res ++ [r]), cur := some (cur + l), idx := some (n + 1) }

/-- R149: return. -/
def Obligations.ReturnSendsResults : Prop :=
  ∀ (s : State) (ops : List Instr), Invariant s → s.phase = .demux → s.ops = some ops → s.idx = some ops.length →
    ∃ (rx : List Byte) (res : List Result), s.rx = some rx ∧ s.cur = some rx.length ∧ s.res = some res
      ∧ res.length = ops.length
      ∧ step s = .next
          { s with
            phase := .idle, ops := none, idx := none, tx := none, len := none, rx := none, cur := none,
            res := none, history := s.history ++ [.results res] }

/-- R183: what an abort does. From EXCHANGE a step that ends the call sends exactly one Abort message and no results,
discards every working register and leaves IDLE. -/
def Obligations.AbortEntry : Prop :=
  ∀ s t : State, s.phase = .exchange → step s = .next t → t.phase = .idle →
    (∃ e : Abort, t.history = s.history ++ [.abort e]) ∧ NoValues t
      ∧ t.stage = s.stage ∧ t.cap = s.cap ∧ t.calls = s.calls

/-! ### The machine as a whole -/

/-- Power-on: IDLE with every other working register holding no value (10_state.md section 9, the spec's decision
D14). That the history is empty there is the model's choice (DESIGN CHOICE, log 10): the history is no register of the
core, and the spec gives it no reset value. -/
def Obligations.PowerOnHoldsNoValue : Prop :=
  State.reset.phase = .idle ∧ NoValues State.reset ∧ State.reset.history = []

/-- The invariant holds at reset. -/
def Obligations.ResetMeetsInvariant : Prop := Invariant State.reset

/-- Every step keeps the invariant of 10_state.md section 2 (R31 there is an inference the spec marks as its own) and the
OPEN parameters within the table of 00_scope.md section 4. -/
def Obligations.InvariantPreserved : Prop :=
  ∀ s t : State, Invariant s → step s = .next t → Invariant t

/-- The core never stops by itself: in a state that meets the invariant, a block that was not abandoned answers a next
state (70_reset_and_hazards.md section 5; the two walks cannot fail). In EXCHANGE without an answer and in IDLE without a
call the core has no step, and that a next state is answered there is the model's choice (DESIGN CHOICE, log 7). -/
def Obligations.BuiltCoreAlwaysSteps : Prop :=
  ∀ s : State, Invariant s → (∀ failed, s.stage ≠ .abandoned failed) → ∃ t, step s = .next t

/-- 41_coordinator.md sections 1, 3 and 4: an answered OPERATE of a well-formed list runs to its end, in k flatten steps,
one issue, one answer and, for a response of the right length, k demultiplex steps and a return. It sends the concatenated
payloads once and ends with the one outcome the answer fixes, the results in list order; every register is back to no
value. R150 (the two functions and one comparison) and R153 (the number of steps) are inferences the spec marks as its
own; that acceptance and the answer take one step each is the model's form (logs 5, 6). -/
def Obligations.OperateAnswered : Prop :=
  ∀ (s : State) (ops : List Instr) (rest : List (List Instr)) (a : Answer) (answers : List Answer),
    ConfigOk s → IdleAtStart s → s.calls = ops :: rest → s.answers = a :: answers →
    transactionWellFormed s.cap ops = true →
    match a with
    | .fail e =>
      steps (ops.length + 3) s = .next
        { s with
          calls := rest, answers := answers,
          history := s.history ++ [.transfer (ops.map encode).flatten, .abort (.transportFailure e)] }
    | .bytes rx =>
      if rx.length = (ops.map encode).flatten.length then
        ∃ res : List Result, outcomeOf ops (.bytes rx) = some (.results res)
          ∧ steps (2 * ops.length + 4) s = .next
              { s with
                calls := rest, answers := answers,
                history := s.history ++ [.transfer (ops.map encode).flatten, .results res] }
      else
        steps (ops.length + 3) s = .next
          { s with
            calls := rest, answers := answers,
            history := s.history ++ [.transfer (ops.map encode).flatten,
              .abort (.protocolInvariantViolation (ops.map encode).flatten.length rx.length)] }

/-- An OPERATE that is never answered sends the concatenated payloads and then stays in EXCHANGE for ever
(41_coordinator.md section 1; the step that changes nothing is the model's choice, log 7). -/
def Obligations.OperateUnanswered : Prop :=
  ∀ (s : State) (ops : List Instr) (rest : List (List Instr)) (n : Nat),
    ConfigOk s → IdleAtStart s → s.calls = ops :: rest → s.answers = [] →
    transactionWellFormed s.cap ops = true →
    steps (ops.length + 2 + n) s = .next
      { s with
        calls := rest, phase := .exchange, ops := some ops, idx := some ops.length,
        tx := some (ops.map encode).flatten, len := some (ops.map transmitLength), res := some [],
        history := s.history ++ [.transfer (ops.map encode).flatten] }

/-- R21: nothing survives between transactions. Two calls of the same list with the same answer add the same messages
to the history, whatever was done before and whatever else the two states hold. -/
def Obligations.CallsAreStateless : Prop :=
  ∀ (s₁ s₂ : State) (ops : List Instr) (rest₁ rest₂ : List (List Instr)) (a : Answer) (more₁ more₂ : List Answer),
    ConfigOk s₁ → ConfigOk s₂ → IdleAtStart s₁ → IdleAtStart s₂ → s₁.cap = s₂.cap →
    s₁.calls = ops :: rest₁ → s₂.calls = ops :: rest₂ → s₁.answers = a :: more₁ → s₂.answers = a :: more₂ →
    ∃ (n : Nat) (events : List Event) (t₁ t₂ : State), 0 < n ∧ events ≠ []
      ∧ steps n s₁ = .next t₁ ∧ steps n s₂ = .next t₂
      ∧ t₁.history = s₁.history ++ events ∧ t₂.history = s₂.history ++ events
      ∧ IdleAtStart t₁ ∧ IdleAtStart t₂

/-- The past does not influence the future: a step from a state with a longer history is the same step, and the history
is only added to (10_state.md section 1; 60_exceptions.md section 9, the spec's decision D13). -/
def Obligations.HistoryIsOnlyAddedTo : Prop :=
  ∀ (s t : State), step s = .next t →
    ∃ events : List Event, t.history = s.history ++ events
      ∧ ∀ past : List Event, step { s with history := past } = .next { t with history := past ++ events }

/-- R141: the four steps run strictly one after another: the exchange starts exactly when all of the list is flattened, the
return comes exactly when all of it is demultiplexed, no payload is computed after the exchange has started and no slice
is parsed before it has ended. -/
def Obligations.StepsFollowTheAlgorithm : Prop :=
  ∀ s t : State, Invariant s → step s = .next t →
    (s.phase = .idle → t.phase = .idle ∨ t.phase = .flatten)
      ∧ (s.phase = .flatten →
          (t.phase = .flatten ∨ t.phase = .exchange) ∧ (t.phase = .exchange ↔ WalkEnded s) ∧ t.res = s.res)
      ∧ (s.phase = .exchange →
          (t.phase = .exchange ∨ t.phase = .demux ∨ t.phase = .idle)
            ∧ (t.phase ≠ .idle → t.tx = s.tx ∧ t.len = s.len ∧ t.res = s.res))
      ∧ (s.phase = .demux →
          (t.phase = .demux ∨ t.phase = .idle) ∧ (t.phase = .idle ↔ WalkEnded s)
            ∧ (t.phase ≠ .idle → t.tx = s.tx ∧ t.len = s.len ∧ t.rx = s.rx))

/-- R24: after flattening the transmit buffer is the concatenated payloads, and it is never changed while it exists. -/
def Obligations.TransmitBufferIsTheConcatenation : Prop :=
  ∀ s : State, Invariant s → s.phase = .exchange ∨ s.phase = .demux →
    ∃ ops : List Instr, s.ops = some ops ∧ s.tx = some (ops.map encode).flatten
      ∧ ∀ t : State, step s = .next t → t.tx = s.tx ∨ (t.phase = .idle ∧ t.tx = none)

/-- The operation list is borrowed: while a call runs no step changes it, until the call ends and it is released
(10_state.md section 2, OPS). -/
def Obligations.BorrowedListUnchanged : Prop :=
  ∀ s t : State, s.phase ≠ .idle → step s = .next t → s.stage = .operational →
    t.ops = s.ops ∨ (t.phase = .idle ∧ t.ops = none)

/-- A step requests a transfer exactly when it goes from FLATTEN to EXCHANGE, and then it sends the whole buffer; no
other step requests one. FLATTEN is entered from IDLE only, by taking a call of the host, so neither EXCHANGE nor DEMUX
goes back to it (20_memory.md section 1). -/
def Obligations.TransferOnlyAtIssue : Prop :=
  ∀ s t : State, Invariant s → step s = .next t →
    (s.phase = .flatten ∧ t.phase = .exchange →
      ∃ ops : List Instr, s.ops = some ops ∧ t.history = s.history ++ [.transfer (flattenAll ops)])
      ∧ (¬(s.phase = .flatten ∧ t.phase = .exchange) →
          ∀ events : List Event, t.history = s.history ++ events → ∀ e ∈ events, e.isTransfer = false)
      ∧ (t.phase = .flatten → s.phase = .flatten ∨ (s.phase = .idle ∧ ∃ ops, s.calls = ops :: t.calls))

/-- R151: the testable properties of the outcome, (a) to (e). -/
def Obligations.OutcomeProperties : Prop :=
  ∀ (ops : List Instr) (rx : List Byte),
    (flattenAll ops).length = (ops.map transmitLength).sum
    ∧ (rx.length = (flattenAll ops).length →
        ∃ res : List Result, outcomeOf ops (.bytes rx) = some (.results res) ∧ res.length = ops.length
          ∧ (∀ (j : Nat) (i : Instr), ops[j]? = some i →
              ((∃ v, res[j]? = some (Result.value v)) ↔ ∃ a n, i = Instr.read a n)
                ∧ (res[j]? = some Result.absent ↔ ∃ a d, i = Instr.write a d))
          ∧ ∀ (rx' : List Byte) (res' : List Result) (j : Nat) (i : Instr), ops[j]? = some i →
              outcomeOf ops (.bytes rx') = some (.results res') →
              (rx.drop ((ops.take j).map transmitLength).sum).take (transmitLength i)
                = (rx'.drop ((ops.take j).map transmitLength).sum).take (transmitLength i) →
              res[j]? = res'[j]?)
    ∧ (rx.length ≠ (flattenAll ops).length → ∀ res, outcomeOf ops (.bytes rx) ≠ some (.results res))

/-- R148: the slice of operation j has the length and the offset of its payload in TX, and the slices cover RX
exactly. -/
def Obligations.SlicesMatchPayloads : Prop :=
  ∀ (ops : List Instr) (rx : List Byte), rx.length = (flattenAll ops).length →
    (∀ (j : Nat) (i : Instr), ops[j]? = some i →
      slice (flattenAll ops) ((ops.take j).map transmitLength).sum
          (((ops.take j).map transmitLength).sum + transmitLength i) = encode i
        ∧ (slice rx ((ops.take j).map transmitLength).sum
            (((ops.take j).map transmitLength).sum + transmitLength i)).length = transmitLength i)
      ∧ ((List.range ops.length).map fun j =>
          slice rx ((ops.take j).map transmitLength).sum ((ops.take (j + 1)).map transmitLength).sum).flatten = rx

/-- Composition (41_coordinator.md section 3, an inference the spec marks as its own). -/
def Obligations.TransactionsCompose : Prop :=
  ∀ (as bs : List Instr) (ra rb : List Byte),
    flattenAll (as ++ bs) = flattenAll as ++ flattenAll bs
      ∧ (ra.length = (flattenAll as).length → rb.length = (flattenAll bs).length →
          ∃ xs ys : List Result, demuxAll as ra = some xs ∧ demuxAll bs rb = some ys
            ∧ demuxAll (as ++ bs) (ra ++ rb) = some (xs ++ ys))

/-- Calls are taken one at a time in IDLE and answers one at a time in EXCHANGE, in order; nothing else touches the
inputs (10_state.md section 5). -/
def Obligations.InputsTakenInOrder : Prop :=
  ∀ s t : State, step s = .next t →
    (t.calls = s.calls ∨ (s.phase = .idle ∧ ∃ ops, s.calls = ops :: t.calls))
      ∧ (t.answers = s.answers ∨ (s.phase = .exchange ∧ ∃ a, s.answers = a :: t.answers))

/-- No step changes the capacity parameters, and once construction is over no step changes the stage
(00_scope.md section 4; 60_exceptions.md section 3). -/
def Obligations.ParametersAndStageFixed : Prop :=
  ∀ s t : State, step s = .next t →
    t.cap = s.cap ∧ ((∀ limits bus, s.stage ≠ .construction limits bus) → t.stage = s.stage)

/-! ### Construction -/

/-- The configuration check: any failed constraint is one ConfigurationError with exactly the failed constraints, and
the block is not built; otherwise it is built (60_exceptions.md section 2; the spec's decisions D10, D11). -/
def Obligations.ConfigurationCheck : Prop :=
  ∀ (s : State) (limits : BusLimits) (bus : BusConfig), s.stage = .construction limits bus → bus.flags = [] →
    ∃ failed : List Constraint,
      (Constraint.mode ∈ failed ↔ bus.mode ∉ limits.supportedModes)
      ∧ (Constraint.speed ∈ failed ↔ limits.maxClockHz < bus.speedHz)
      ∧ (Constraint.bitOrder ∈ failed ↔ bus.bitOrder ≠ .msbFirst)
      ∧ (Constraint.wordSize ∈ failed ↔ bus.wordBits ≠ 8)
      ∧ (failed = [] → step s = .next { s with stage := .operational })
      ∧ (failed ≠ [] → step s = .next
          { s with stage := .abandoned failed, history := s.history ++ [.configurationError failed] })

/-- Unrecognised capability flags are a non-fatal warning; construction goes on exactly as if they were absent
(60_exceptions.md section 2). Where construction also fails, that the warning follows the ConfigurationError in the history
is the model's choice (DESIGN CHOICE, log 23): the spec gives the two events no order. -/
def Obligations.UnknownFlagsOnlyWarn : Prop :=
  ∀ (s : State) (limits : BusLimits) (bus : BusConfig), s.stage = .construction limits bus →
    ∃ t : State,
      step { s with stage := .construction limits { bus with flags := [] } } = .next t
      ∧ ((∀ f ∈ bus.flags, f ∈ limits.knownFlags) → step s = .next t)
      ∧ ((∃ f ∈ bus.flags, f ∉ limits.knownFlags) →
          ∃ flags : List CapabilityFlag, (∀ f, f ∈ flags ↔ f ∈ bus.flags ∧ f ∉ limits.knownFlags)
            ∧ step s = .next { t with history := t.history ++ [.configurationWarning flags] })

/-- After a ConfigurationError nothing else ever happens (60_exceptions.md sections 2 and 6); that every further step is the
fault configurationError is the model's form of that (DESIGN CHOICE, log 23). -/
def Obligations.AbandonedBlockNeverRuns : Prop :=
  ∀ (s : State) (failed : List Constraint) (n : Nat), s.stage = .abandoned failed →
    step s = .fault (.configurationError failed)
      ∧ steps (n + 1) s = .fault (.configurationError failed)

/-- What the parameter table asks of the limits, a non-empty set of modes and a positive ceiling, is exactly what lets some
configuration with a clock that runs at all be built without an error or a warning (00_scope.md section 4; an inference of
the model's, from the checks of 60_exceptions.md section 2). -/
def Obligations.LegalLimitsAdmitAConfiguration : Prop :=
  ∀ limits : BusLimits,
    limits.legal = true ↔
      ∃ bus : BusConfig, 0 < bus.speedHz ∧ step (State.atConstruction limits bus) = .next State.reset

/-! ### Error classes -/

/-- The closed enumeration of error classes: five, with the ordinals 0 to 4 in the table's order, each with its kind
(60_exceptions.md section 1; the ordinals are the spec's decision D9). -/
def Obligations.ErrorClassOrdinals : Prop :=
  (ErrorClass.configurationError.ordinal = 0 ∧ ErrorClass.configurationError.kind = .fatalAtSetup)
    ∧ (ErrorClass.configurationWarning.ordinal = 1 ∧ ErrorClass.configurationWarning.kind = .nonFatalLogged)
    ∧ (ErrorClass.protocolInvariantViolation.ordinal = 2
      ∧ ErrorClass.protocolInvariantViolation.kind = .fatalToTransaction)
    ∧ (ErrorClass.callerContractViolation.ordinal = 3
      ∧ ErrorClass.callerContractViolation.kind = .undefinedNotRaised)
    ∧ (ErrorClass.transportFailure.ordinal = 4 ∧ ErrorClass.transportFailure.kind = .fatalToTransaction)
    ∧ (∀ c : ErrorClass, c.ordinal < 5) ∧ ∀ c d : ErrorClass, c.ordinal = d.ordinal → c = d

/-- Each class of error is reported where its row of the table says, with the information and the effect that stand there,
and CallerContractViolation by no step at all (60_exceptions.md sections 1 and 2). -/
def Obligations.ErrorsRaisedAsTabled : Prop :=
  ∀ (s t : State) (events : List Event), step s = .next t → t.history = s.history ++ events →
    ∀ e ∈ events, ∀ c : ErrorClass, e.errorClass = some c →
      match c with
      | .configurationError =>
        ∃ limits bus failed, s.stage = .construction limits bus ∧ e = .configurationError failed ∧ failed ≠ []
          ∧ (∀ k, k ∈ failed ↔ violates limits bus k = true) ∧ t.stage = .abandoned failed
      | .configurationWarning =>
        ∃ limits bus flags, s.stage = .construction limits bus ∧ e = .configurationWarning flags ∧ flags ≠ []
          ∧ ∀ f, f ∈ flags ↔ f ∈ bus.flags ∧ f ∉ limits.knownFlags
      | .protocolInvariantViolation =>
        ∃ tx rx rest, s.phase = .exchange ∧ s.tx = some tx ∧ s.answers = .bytes rx :: rest ∧ rx.length ≠ tx.length
          ∧ e = .abort (.protocolInvariantViolation tx.length rx.length) ∧ events = [e] ∧ IdleAtStart t
      | .callerContractViolation => False
      | .transportFailure =>
        ∃ f rest, s.phase = .exchange ∧ s.answers = .fail f :: rest ∧ e = .abort (.transportFailure f)
          ∧ events = [e] ∧ IdleAtStart t

/-- A violated caller contract is a Read of another width than its register's, which the core cannot know, or an address
that is not enumerated, for which the list is refused before acceptance with nothing sent (60_exceptions.md section 1). -/
def Obligations.CallerContractCases : Prop :=
  ∀ (s : State) (ops : List Instr) (rest : List (List Instr)) (width : Addr → Nat),
    s.stage = .operational → s.phase = .idle → s.calls = ops :: rest → CallerContractViolated width ops →
    ¬ WidthsTrue width ops
      ∨ ∃ reasons, IllFormed.badAddress ∈ reasons
          ∧ step s = .next { s with calls := rest, history := s.history ++ [.refused reasons] }

/-! ### The text form -/

/-- 30_encoding.md section 6, at the level of characters: the text of any tokens is cut into the same tokens, and the text
of a list of operations is read as that list. The blanks between tokens, the upper case of the digits and the lists that
are no well-formed transaction are the model's choice (DESIGN CHOICE, log 24). -/
def Obligations.TextReadsBack : Prop :=
  (∀ ts : List Token, tokenize [] (textOf ts) = some ts)
    ∧ ∀ ops : List Instr, assemble (textOf (transactionTokens ops)) = some ops
end

