-- ==== Sys2Proof/Laws/State.lean ====
section
/-! SUPPORT. One lemma per field per named update of the state, each true by unfolding, so that no later proof
unfolds a record update. -/

namespace Sys2Proof.Machine

/-! ### Appending an event changes the history alone (R192). -/

@[simp] theorem State.emit_stage (e : Event) (s : State) : (s.emit e).stage = s.stage := rfl
@[simp] theorem State.emit_cap (e : Event) (s : State) : (s.emit e).cap = s.cap := rfl
@[simp] theorem State.emit_phase (e : Event) (s : State) : (s.emit e).phase = s.phase := rfl
@[simp] theorem State.emit_ops (e : Event) (s : State) : (s.emit e).ops = s.ops := rfl
@[simp] theorem State.emit_idx (e : Event) (s : State) : (s.emit e).idx = s.idx := rfl
@[simp] theorem State.emit_tx (e : Event) (s : State) : (s.emit e).tx = s.tx := rfl
@[simp] theorem State.emit_len (e : Event) (s : State) : (s.emit e).len = s.len := rfl
@[simp] theorem State.emit_rx (e : Event) (s : State) : (s.emit e).rx = s.rx := rfl
@[simp] theorem State.emit_cur (e : Event) (s : State) : (s.emit e).cur = s.cur := rfl
@[simp] theorem State.emit_res (e : Event) (s : State) : (s.emit e).res = s.res := rfl
@[simp] theorem State.emit_calls (e : Event) (s : State) : (s.emit e).calls = s.calls := rfl
@[simp] theorem State.emit_answers (e : Event) (s : State) : (s.emit e).answers = s.answers := rfl
@[simp] theorem State.emit_history (e : Event) (s : State) : (s.emit e).history = s.history ++ [e] := rfl

/-! ### Releasing leaves no working register a value (R43, R149). -/

@[simp] theorem State.released_stage (s : State) : s.released.stage = s.stage := rfl
@[simp] theorem State.released_cap (s : State) : s.released.cap = s.cap := rfl
@[simp] theorem State.released_phase (s : State) : s.released.phase = .idle := rfl
@[simp] theorem State.released_ops (s : State) : s.released.ops = none := rfl
@[simp] theorem State.released_idx (s : State) : s.released.idx = none := rfl
@[simp] theorem State.released_tx (s : State) : s.released.tx = none := rfl
@[simp] theorem State.released_len (s : State) : s.released.len = none := rfl
@[simp] theorem State.released_rx (s : State) : s.released.rx = none := rfl
@[simp] theorem State.released_cur (s : State) : s.released.cur = none := rfl
@[simp] theorem State.released_res (s : State) : s.released.res = none := rfl
@[simp] theorem State.released_calls (s : State) : s.released.calls = s.calls := rfl
@[simp] theorem State.released_answers (s : State) : s.released.answers = s.answers := rfl
@[simp] theorem State.released_history (s : State) : s.released.history = s.history := rfl

/-! ### Accepting (R142). -/

@[simp] theorem State.accepted_stage (ops : List Instr) (s : State) : (s.accepted ops).stage = s.stage := rfl
@[simp] theorem State.accepted_cap (ops : List Instr) (s : State) : (s.accepted ops).cap = s.cap := rfl
@[simp] theorem State.accepted_phase (ops : List Instr) (s : State) : (s.accepted ops).phase = .flatten := rfl
@[simp] theorem State.accepted_ops (ops : List Instr) (s : State) : (s.accepted ops).ops = some ops := rfl
@[simp] theorem State.accepted_idx (ops : List Instr) (s : State) : (s.accepted ops).idx = some 0 := rfl
@[simp] theorem State.accepted_tx (ops : List Instr) (s : State) : (s.accepted ops).tx = some [] := rfl
@[simp] theorem State.accepted_len (ops : List Instr) (s : State) : (s.accepted ops).len = some [] := rfl
@[simp] theorem State.accepted_rx (ops : List Instr) (s : State) : (s.accepted ops).rx = s.rx := rfl
@[simp] theorem State.accepted_cur (ops : List Instr) (s : State) : (s.accepted ops).cur = s.cur := rfl
@[simp] theorem State.accepted_res (ops : List Instr) (s : State) : (s.accepted ops).res = some [] := rfl
@[simp] theorem State.accepted_calls (ops : List Instr) (s : State) : (s.accepted ops).calls = s.calls := rfl
@[simp] theorem State.accepted_answers (ops : List Instr) (s : State) : (s.accepted ops).answers = s.answers := rfl
@[simp] theorem State.accepted_history (ops : List Instr) (s : State) : (s.accepted ops).history = s.history := rfl

/-! ### A flatten step (R143). -/

@[simp] theorem State.flattened_stage (i : Nat) (tx : List Byte) (len : List Nat) (p : List Byte) (s : State) : (s.flattened i tx len p).stage = s.stage := rfl
@[simp] theorem State.flattened_cap (i : Nat) (tx : List Byte) (len : List Nat) (p : List Byte) (s : State) : (s.flattened i tx len p).cap = s.cap := rfl
@[simp] theorem State.flattened_phase (i : Nat) (tx : List Byte) (len : List Nat) (p : List Byte) (s : State) : (s.flattened i tx len p).phase = s.phase := rfl
@[simp] theorem State.flattened_ops (i : Nat) (tx : List Byte) (len : List Nat) (p : List Byte) (s : State) : (s.flattened i tx len p).ops = s.ops := rfl
@[simp] theorem State.flattened_idx (i : Nat) (tx : List Byte) (len : List Nat) (p : List Byte) (s : State) : (s.flattened i tx len p).idx = some (i + 1) := rfl
@[simp] theorem State.flattened_tx (i : Nat) (tx : List Byte) (len : List Nat) (p : List Byte) (s : State) : (s.flattened i tx len p).tx = some (tx ++ p) := rfl
@[simp] theorem State.flattened_len (i : Nat) (tx : List Byte) (len : List Nat) (p : List Byte) (s : State) : (s.flattened i tx len p).len = some (len ++ [p.length]) := rfl
@[simp] theorem State.flattened_rx (i : Nat) (tx : List Byte) (len : List Nat) (p : List Byte) (s : State) : (s.flattened i tx len p).rx = s.rx := rfl
@[simp] theorem State.flattened_cur (i : Nat) (tx : List Byte) (len : List Nat) (p : List Byte) (s : State) : (s.flattened i tx len p).cur = s.cur := rfl
@[simp] theorem State.flattened_res (i : Nat) (tx : List Byte) (len : List Nat) (p : List Byte) (s : State) : (s.flattened i tx len p).res = s.res := rfl
@[simp] theorem State.flattened_calls (i : Nat) (tx : List Byte) (len : List Nat) (p : List Byte) (s : State) : (s.flattened i tx len p).calls = s.calls := rfl
@[simp] theorem State.flattened_answers (i : Nat) (tx : List Byte) (len : List Nat) (p : List Byte) (s : State) : (s.flattened i tx len p).answers = s.answers := rfl
@[simp] theorem State.flattened_history (i : Nat) (tx : List Byte) (len : List Nat) (p : List Byte) (s : State) : (s.flattened i tx len p).history = s.history := rfl

/-! ### A demultiplex step (R147). -/

@[simp] theorem State.demultiplexed_stage (i cur l : Nat) (res : List Result) (r : Result) (s : State) : (s.demultiplexed i cur l res r).stage = s.stage := rfl
@[simp] theorem State.demultiplexed_cap (i cur l : Nat) (res : List Result) (r : Result) (s : State) : (s.demultiplexed i cur l res r).cap = s.cap := rfl
@[simp] theorem State.demultiplexed_phase (i cur l : Nat) (res : List Result) (r : Result) (s : State) : (s.demultiplexed i cur l res r).phase = s.phase := rfl
@[simp] theorem State.demultiplexed_ops (i cur l : Nat) (res : List Result) (r : Result) (s : State) : (s.demultiplexed i cur l res r).ops = s.ops := rfl
@[simp] theorem State.demultiplexed_idx (i cur l : Nat) (res : List Result) (r : Result) (s : State) : (s.demultiplexed i cur l res r).idx = some (i + 1) := rfl
@[simp] theorem State.demultiplexed_tx (i cur l : Nat) (res : List Result) (r : Result) (s : State) : (s.demultiplexed i cur l res r).tx = s.tx := rfl
@[simp] theorem State.demultiplexed_len (i cur l : Nat) (res : List Result) (r : Result) (s : State) : (s.demultiplexed i cur l res r).len = s.len := rfl
@[simp] theorem State.demultiplexed_rx (i cur l : Nat) (res : List Result) (r : Result) (s : State) : (s.demultiplexed i cur l res r).rx = s.rx := rfl
@[simp] theorem State.demultiplexed_cur (i cur l : Nat) (res : List Result) (r : Result) (s : State) : (s.demultiplexed i cur l res r).cur = some (cur + l) := rfl
@[simp] theorem State.demultiplexed_res (i cur l : Nat) (res : List Result) (r : Result) (s : State) : (s.demultiplexed i cur l res r).res = some (res ++ [r]) := rfl
@[simp] theorem State.demultiplexed_calls (i cur l : Nat) (res : List Result) (r : Result) (s : State) : (s.demultiplexed i cur l res r).calls = s.calls := rfl
@[simp] theorem State.demultiplexed_answers (i cur l : Nat) (res : List Result) (r : Result) (s : State) : (s.demultiplexed i cur l res r).answers = s.answers := rfl
@[simp] theorem State.demultiplexed_history (i cur l : Nat) (res : List Result) (r : Result) (s : State) : (s.demultiplexed i cur l res r).history = s.history := rfl

/-! ### An answer of the right length (R146). -/

@[simp] theorem State.answered_stage (rx : List Byte) (s : State) : (s.answered rx).stage = s.stage := rfl
@[simp] theorem State.answered_cap (rx : List Byte) (s : State) : (s.answered rx).cap = s.cap := rfl
@[simp] theorem State.answered_phase (rx : List Byte) (s : State) : (s.answered rx).phase = .demux := rfl
@[simp] theorem State.answered_ops (rx : List Byte) (s : State) : (s.answered rx).ops = s.ops := rfl
@[simp] theorem State.answered_idx (rx : List Byte) (s : State) : (s.answered rx).idx = some 0 := rfl
@[simp] theorem State.answered_tx (rx : List Byte) (s : State) : (s.answered rx).tx = s.tx := rfl
@[simp] theorem State.answered_len (rx : List Byte) (s : State) : (s.answered rx).len = s.len := rfl
@[simp] theorem State.answered_rx (rx : List Byte) (s : State) : (s.answered rx).rx = some rx := rfl
@[simp] theorem State.answered_cur (rx : List Byte) (s : State) : (s.answered rx).cur = some 0 := rfl
@[simp] theorem State.answered_res (rx : List Byte) (s : State) : (s.answered rx).res = s.res := rfl
@[simp] theorem State.answered_calls (rx : List Byte) (s : State) : (s.answered rx).calls = s.calls := rfl
@[simp] theorem State.answered_answers (rx : List Byte) (s : State) : (s.answered rx).answers = s.answers := rfl
@[simp] theorem State.answered_history (rx : List Byte) (s : State) : (s.answered rx).history = s.history := rfl

/-! ### Issue (R144). -/

@[simp] theorem State.issued_stage (tx : List Byte) (s : State) : (s.issued tx).stage = s.stage := rfl
@[simp] theorem State.issued_cap (tx : List Byte) (s : State) : (s.issued tx).cap = s.cap := rfl
@[simp] theorem State.issued_phase (tx : List Byte) (s : State) : (s.issued tx).phase = .exchange := rfl
@[simp] theorem State.issued_ops (tx : List Byte) (s : State) : (s.issued tx).ops = s.ops := rfl
@[simp] theorem State.issued_idx (tx : List Byte) (s : State) : (s.issued tx).idx = s.idx := rfl
@[simp] theorem State.issued_tx (tx : List Byte) (s : State) : (s.issued tx).tx = s.tx := rfl
@[simp] theorem State.issued_len (tx : List Byte) (s : State) : (s.issued tx).len = s.len := rfl
@[simp] theorem State.issued_rx (tx : List Byte) (s : State) : (s.issued tx).rx = s.rx := rfl
@[simp] theorem State.issued_cur (tx : List Byte) (s : State) : (s.issued tx).cur = s.cur := rfl
@[simp] theorem State.issued_res (tx : List Byte) (s : State) : (s.issued tx).res = s.res := rfl
@[simp] theorem State.issued_calls (tx : List Byte) (s : State) : (s.issued tx).calls = s.calls := rfl
@[simp] theorem State.issued_answers (tx : List Byte) (s : State) : (s.issued tx).answers = s.answers := rfl
@[simp] theorem State.issued_history (tx : List Byte) (s : State) : (s.issued tx).history = s.history ++ [.transfer tx] := rfl

/-! ### The host has made a call (R36). -/

@[simp] theorem State.withCalls_stage (c : List (List Instr)) (s : State) : (s.withCalls c).stage = s.stage := rfl
@[simp] theorem State.withCalls_cap (c : List (List Instr)) (s : State) : (s.withCalls c).cap = s.cap := rfl
@[simp] theorem State.withCalls_phase (c : List (List Instr)) (s : State) : (s.withCalls c).phase = s.phase := rfl
@[simp] theorem State.withCalls_ops (c : List (List Instr)) (s : State) : (s.withCalls c).ops = s.ops := rfl
@[simp] theorem State.withCalls_idx (c : List (List Instr)) (s : State) : (s.withCalls c).idx = s.idx := rfl
@[simp] theorem State.withCalls_tx (c : List (List Instr)) (s : State) : (s.withCalls c).tx = s.tx := rfl
@[simp] theorem State.withCalls_len (c : List (List Instr)) (s : State) : (s.withCalls c).len = s.len := rfl
@[simp] theorem State.withCalls_rx (c : List (List Instr)) (s : State) : (s.withCalls c).rx = s.rx := rfl
@[simp] theorem State.withCalls_cur (c : List (List Instr)) (s : State) : (s.withCalls c).cur = s.cur := rfl
@[simp] theorem State.withCalls_res (c : List (List Instr)) (s : State) : (s.withCalls c).res = s.res := rfl
@[simp] theorem State.withCalls_calls (c : List (List Instr)) (s : State) : (s.withCalls c).calls = c := rfl
@[simp] theorem State.withCalls_answers (c : List (List Instr)) (s : State) : (s.withCalls c).answers = s.answers := rfl
@[simp] theorem State.withCalls_history (c : List (List Instr)) (s : State) : (s.withCalls c).history = s.history := rfl

/-! ### The transport has answered (R38). -/

@[simp] theorem State.withAnswers_stage (a : List Answer) (s : State) : (s.withAnswers a).stage = s.stage := rfl
@[simp] theorem State.withAnswers_cap (a : List Answer) (s : State) : (s.withAnswers a).cap = s.cap := rfl
@[simp] theorem State.withAnswers_phase (a : List Answer) (s : State) : (s.withAnswers a).phase = s.phase := rfl
@[simp] theorem State.withAnswers_ops (a : List Answer) (s : State) : (s.withAnswers a).ops = s.ops := rfl
@[simp] theorem State.withAnswers_idx (a : List Answer) (s : State) : (s.withAnswers a).idx = s.idx := rfl
@[simp] theorem State.withAnswers_tx (a : List Answer) (s : State) : (s.withAnswers a).tx = s.tx := rfl
@[simp] theorem State.withAnswers_len (a : List Answer) (s : State) : (s.withAnswers a).len = s.len := rfl
@[simp] theorem State.withAnswers_rx (a : List Answer) (s : State) : (s.withAnswers a).rx = s.rx := rfl
@[simp] theorem State.withAnswers_cur (a : List Answer) (s : State) : (s.withAnswers a).cur = s.cur := rfl
@[simp] theorem State.withAnswers_res (a : List Answer) (s : State) : (s.withAnswers a).res = s.res := rfl
@[simp] theorem State.withAnswers_calls (a : List Answer) (s : State) : (s.withAnswers a).calls = s.calls := rfl
@[simp] theorem State.withAnswers_answers (a : List Answer) (s : State) : (s.withAnswers a).answers = a := rfl
@[simp] theorem State.withAnswers_history (a : List Answer) (s : State) : (s.withAnswers a).history = s.history := rfl

/-! ### The moment of the block's life (R182). -/

@[simp] theorem State.withStage_stage (g : Stage) (s : State) : (s.withStage g).stage = g := rfl
@[simp] theorem State.withStage_cap (g : Stage) (s : State) : (s.withStage g).cap = s.cap := rfl
@[simp] theorem State.withStage_phase (g : Stage) (s : State) : (s.withStage g).phase = s.phase := rfl
@[simp] theorem State.withStage_ops (g : Stage) (s : State) : (s.withStage g).ops = s.ops := rfl
@[simp] theorem State.withStage_idx (g : Stage) (s : State) : (s.withStage g).idx = s.idx := rfl
@[simp] theorem State.withStage_tx (g : Stage) (s : State) : (s.withStage g).tx = s.tx := rfl
@[simp] theorem State.withStage_len (g : Stage) (s : State) : (s.withStage g).len = s.len := rfl
@[simp] theorem State.withStage_rx (g : Stage) (s : State) : (s.withStage g).rx = s.rx := rfl
@[simp] theorem State.withStage_cur (g : Stage) (s : State) : (s.withStage g).cur = s.cur := rfl
@[simp] theorem State.withStage_res (g : Stage) (s : State) : (s.withStage g).res = s.res := rfl
@[simp] theorem State.withStage_calls (g : Stage) (s : State) : (s.withStage g).calls = s.calls := rfl
@[simp] theorem State.withStage_answers (g : Stage) (s : State) : (s.withStage g).answers = s.answers := rfl
@[simp] theorem State.withStage_history (g : Stage) (s : State) : (s.withStage g).history = s.history := rfl

/-! ### An abort (R183). -/

@[simp] theorem State.aborted_stage (e : Abort) (s : State) : (s.aborted e).stage = s.stage := rfl
@[simp] theorem State.aborted_cap (e : Abort) (s : State) : (s.aborted e).cap = s.cap := rfl
@[simp] theorem State.aborted_phase (e : Abort) (s : State) : (s.aborted e).phase = .idle := rfl
@[simp] theorem State.aborted_ops (e : Abort) (s : State) : (s.aborted e).ops = none := rfl
@[simp] theorem State.aborted_idx (e : Abort) (s : State) : (s.aborted e).idx = none := rfl
@[simp] theorem State.aborted_tx (e : Abort) (s : State) : (s.aborted e).tx = none := rfl
@[simp] theorem State.aborted_len (e : Abort) (s : State) : (s.aborted e).len = none := rfl
@[simp] theorem State.aborted_rx (e : Abort) (s : State) : (s.aborted e).rx = none := rfl
@[simp] theorem State.aborted_cur (e : Abort) (s : State) : (s.aborted e).cur = none := rfl
@[simp] theorem State.aborted_res (e : Abort) (s : State) : (s.aborted e).res = none := rfl
@[simp] theorem State.aborted_calls (e : Abort) (s : State) : (s.aborted e).calls = s.calls := rfl
@[simp] theorem State.aborted_answers (e : Abort) (s : State) : (s.aborted e).answers = s.answers := rfl
@[simp] theorem State.aborted_history (e : Abort) (s : State) : (s.aborted e).history = s.history ++ [.abort e] := rfl

/-! ### An operation placed as a transaction of its own (log 13). -/

@[simp] theorem State.loaded_stage (i : Instr) (s : State) : (s.loaded i).stage = .operational := rfl
@[simp] theorem State.loaded_cap (i : Instr) (s : State) : (s.loaded i).cap = s.cap := rfl
@[simp] theorem State.loaded_phase (i : Instr) (s : State) : (s.loaded i).phase = .flatten := rfl
@[simp] theorem State.loaded_ops (i : Instr) (s : State) : (s.loaded i).ops = some [i] := rfl
@[simp] theorem State.loaded_idx (i : Instr) (s : State) : (s.loaded i).idx = some 0 := rfl
@[simp] theorem State.loaded_tx (i : Instr) (s : State) : (s.loaded i).tx = some [] := rfl
@[simp] theorem State.loaded_len (i : Instr) (s : State) : (s.loaded i).len = some [] := rfl
@[simp] theorem State.loaded_rx (i : Instr) (s : State) : (s.loaded i).rx = s.rx := rfl
@[simp] theorem State.loaded_cur (i : Instr) (s : State) : (s.loaded i).cur = s.cur := rfl
@[simp] theorem State.loaded_res (i : Instr) (s : State) : (s.loaded i).res = some [] := rfl
@[simp] theorem State.loaded_calls (i : Instr) (s : State) : (s.loaded i).calls = s.calls := rfl
@[simp] theorem State.loaded_answers (i : Instr) (s : State) : (s.loaded i).answers = s.answers := rfl
@[simp] theorem State.loaded_history (i : Instr) (s : State) : (s.loaded i).history = s.history := rfl

end Sys2Proof.Machine
end

