-- ==== Sys2Proof/Laws/Ops.lean ====
section
/-! SUPPORT. What each shared operation can do, said once: the register read, the two halves of an operation's run,
the steps of the coordinator, and the step as a whole. -/

namespace Sys2Proof.Machine

/-! ### Reading a working register (R32, D14) -/

@[simp] theorem need_some {α : Type} (r : Reg) (a : α) (k : α → StepOutcome) : need r (some a) k = k a := rfl

@[simp] theorem need_none {α : Type} (r : Reg) (k : α → StepOutcome) : need r none k = .fault (.noValue r) := rfl

/-- A register read answers a next state exactly when the register holds a value the rest goes on with. -/
theorem need_eq_next {α : Type} {r : Reg} {v : Option α} {k : α → StepOutcome} {t : State} :
    need r v k = .next t ↔ ∃ a, v = some a ∧ k a = .next t := by
  cases v <;> simp [need]

/-! ### The two halves of an operation's run -/

/-- A flatten step answers a next state exactly when `IDX`, `TX` and `LEN` hold values (R143). -/
theorem flattenStep_eq_next {p : List Byte} {s t : State} :
    flattenStep p s = .next t ↔
      ∃ i tx len, s.idx = some i ∧ s.tx = some tx ∧ s.len = some len ∧ t = s.flattened i tx len p := by
  simp only [flattenStep, need_eq_next, Host.Outcome.next.injEq]
  constructor
  · rintro ⟨i, hi, tx, htx, len, hl, rfl⟩
    exact ⟨i, tx, len, hi, htx, hl, rfl⟩
  · rintro ⟨i, tx, len, hi, htx, hl, rfl⟩
    exact ⟨i, hi, tx, htx, len, hl, rfl⟩

/-- A demultiplex step answers a next state exactly when its registers hold values, a length is recorded for `IDX`
and the slice has a parse (R147). -/
theorem demuxStep_eq_next {parse : List Byte → Option Result} {s t : State} :
    demuxStep parse s = .next t ↔
      ∃ i len rx cur res l r, s.idx = some i ∧ s.len = some len ∧ s.rx = some rx ∧ s.cur = some cur
        ∧ s.res = some res ∧ len[i]? = some l ∧ parse (slice rx cur (cur + l)) = some r
        ∧ t = s.demultiplexed i cur l res r := by
  simp only [demuxStep, need_eq_next]
  constructor
  · rintro ⟨i, hi, len, hl, rx, hrx, cur, hc, res, hr, h⟩
    cases hli : len[i]? with
    | none => simp [hli] at h
    | some l =>
      simp only [hli] at h
      cases hp : parse (slice rx cur (cur + l)) with
      | none => simp [hp] at h
      | some r =>
        simp only [hp, Host.Outcome.next.injEq] at h
        exact ⟨i, len, rx, cur, res, l, r, hi, hl, hrx, hc, hr, hli, hp, h.symm⟩
  · rintro ⟨i, len, rx, cur, res, l, r, hi, hl, hrx, hc, hr, hli, hp, rfl⟩
    exact ⟨i, hi, len, hl, rx, hrx, cur, hc, res, hr, by simp [hli, hp]⟩

/-- Both meanings are the shared run over the operation's payload and parse (R117). -/
theorem exec_eq_runOperation (i : Instr) (s : State) : exec i s = runOperation (encode i) (parse i) s := by
  cases i <;> rfl

/-- An operation answers a next state only inside one of the two walks (R111, R114). -/
theorem exec_eq_next {i : Instr} {s t : State} :
    exec i s = .next t ↔
      (s.phase = .flatten ∧ flattenStep (encode i) s = .next t) ∨
      (s.phase = .demux ∧ demuxStep (parse i) s = .next t) := by
  rw [exec_eq_runOperation]
  cases h : s.phase <;> simp [runOperation, h]

/-! ### The coordinator's steps -/

/-- The end of a walk goes on exactly when `IDX = k` (R27). -/
theorem atEnd_eq_next {k : State → StepOutcome} {s t : State} :
    atEnd s k = .next t ↔ ∃ ops, s.ops = some ops ∧ s.idx = some ops.length ∧ k s = .next t := by
  simp only [atEnd, need_eq_next]
  constructor
  · rintro ⟨ops, ho, i, hi, h⟩
    split at h
    · next he => subst he; exact ⟨ops, ho, hi, h⟩
    · simp at h
  · rintro ⟨ops, ho, hi, h⟩
    exact ⟨ops, ho, ops.length, hi, by simp [h]⟩

/-- Issue (R144). -/
theorem issue_eq_next {s t : State} :
    issue s = .next t ↔
      ∃ tx, s.tx = some tx ∧ t = s.issued tx := by
  simp only [issue, need_eq_next, Host.Outcome.next.injEq, eq_comm (a := t)]

/-- Return (R149). -/
theorem finish_eq_next {s t : State} :
    finish s = .next t ↔ ∃ res, s.res = some res ∧ t = (s.emit (.results res)).released := by
  simp only [finish, need_eq_next, Host.Outcome.next.injEq, eq_comm (a := t)]

/-- The three things an answer can do (R146, R175). -/
theorem takeAnswer_eq_next {a : Answer} {s t : State} :
    takeAnswer a s = .next t ↔
      (∃ e, a = .fail e ∧ t = s.aborted (.transportFailure e)) ∨
      (∃ rx tx, a = .bytes rx ∧ s.tx = some tx ∧ rx.length = tx.length ∧ t = s.answered rx) ∨
      (∃ rx tx, a = .bytes rx ∧ s.tx = some tx ∧ rx.length ≠ tx.length
        ∧ t = s.aborted (.protocolInvariantViolation tx.length rx.length)) := by
  cases a with
  | fail e => simp [takeAnswer, eq_comm]
  | bytes rx =>
    simp only [takeAnswer, need_eq_next]
    constructor
    · rintro ⟨tx, htx, h⟩
      split at h
      · next he => exact .inr (.inl ⟨rx, tx, rfl, htx, he, by simpa using h.symm⟩)
      · next he => exact .inr (.inr ⟨rx, tx, rfl, htx, he, by simpa using h.symm⟩)
    · rintro (⟨e, h, -⟩ | ⟨rx', tx, h, htx, he, rfl⟩ | ⟨rx', tx, h, htx, he, rfl⟩)
      · cases h
      · cases h; exact ⟨tx, htx, by simp [he]⟩
      · cases h; exact ⟨tx, htx, by simp [he]⟩

/-! ### The step as a whole -/

/-- At the program counter while a walk runs (R27). -/
theorem fetched_eq_some {s : State} {i : Instr} :
    fetched s = some i ↔ s.stage = .operational ∧ s.phase.walks = true ∧
      ∃ ops n, s.ops = some ops ∧ s.idx = some n ∧ ops[n]? = some i := by
  unfold fetched
  split
  · next h => simp [h, Option.bind_eq_some_iff]
  · next h =>
    simp only [reduceCtorEq, false_iff, not_and, not_exists]
    intro h1 h2
    exact absurd ⟨h1, h2⟩ h

/-- Where an operation is at the program counter the walk has not ended (R27). -/
theorem not_walkEnded_of_getElem? {s : State} {ops : List Instr} {n : Nat} {i : Instr} (ho : s.ops = some ops)
    (hn : s.idx = some n) (hi : ops[n]? = some i) : ¬ WalkEnded s := by
  rintro ⟨ops', ho', hn'⟩
  obtain rfl : ops = ops' := by simpa [ho] using ho'
  obtain rfl : n = ops.length := by simpa [hn] using hn'
  simp at hi

/-- The step at an operation (R143, R147). -/
theorem step_fetched {s : State} {i : Instr} (h : fetched s = some i) : step s = exec i s := by
  simp [step, h]

/-- The step where no operation is at the program counter. -/
theorem step_coordinate {s : State} (h : fetched s = none) : step s = coordinate s := by
  simp [step, h]

/-- Everything one step can do when it answers a next state (step table of 41_coordinator.md section 2, R182). -/
theorem step_cases {s t : State} (h : step s = .next t) :
    (∃ limits bus, s.stage = .construction limits bus ∧ t = construct limits bus s) ∨
    (s.stage = .operational ∧ s.phase = .idle ∧ t = serveHost s) ∨
    (s.stage = .operational ∧ s.phase = .flatten ∧ ∃ ops n i tx len, s.ops = some ops ∧ s.idx = some n
      ∧ ops[n]? = some i ∧ s.tx = some tx ∧ s.len = some len ∧ t = s.flattened n tx len (encode i)) ∨
    (s.stage = .operational ∧ s.phase = .flatten ∧ ∃ ops tx, s.ops = some ops ∧ s.idx = some ops.length
      ∧ s.tx = some tx ∧ t = s.issued tx) ∨
    (s.stage = .operational ∧ s.phase = .exchange ∧ s.answers = [] ∧ t = s) ∨
    (s.stage = .operational ∧ s.phase = .exchange ∧ ∃ e rest, s.answers = .fail e :: rest
      ∧ t = (s.withAnswers rest).aborted (.transportFailure e)) ∨
    (s.stage = .operational ∧ s.phase = .exchange ∧ ∃ rx rest tx, s.answers = .bytes rx :: rest ∧ s.tx = some tx
      ∧ rx.length = tx.length ∧ t = (s.withAnswers rest).answered rx) ∨
    (s.stage = .operational ∧ s.phase = .exchange ∧ ∃ rx rest tx, s.answers = .bytes rx :: rest ∧ s.tx = some tx
      ∧ rx.length ≠ tx.length
      ∧ t = (s.withAnswers rest).aborted (.protocolInvariantViolation tx.length rx.length)) ∨
    (s.stage = .operational ∧ s.phase = .demux ∧ ∃ ops n i len rx cur res l r, s.ops = some ops ∧ s.idx = some n
      ∧ ops[n]? = some i ∧ s.len = some len ∧ s.rx = some rx ∧ s.cur = some cur ∧ s.res = some res
      ∧ len[n]? = some l ∧ parse i (slice rx cur (cur + l)) = some r ∧ t = s.demultiplexed n cur l res r) ∨
    (s.stage = .operational ∧ s.phase = .demux ∧ ∃ ops res, s.ops = some ops ∧ s.idx = some ops.length
      ∧ s.res = some res ∧ t = (s.emit (.results res)).released) := by
  cases hf : fetched s with
  | some i =>
    rw [step_fetched hf] at h
    obtain ⟨hst, -, ops, n, ho, hn, hi⟩ := fetched_eq_some.1 hf
    rcases exec_eq_next.1 h with ⟨hp, h⟩ | ⟨hp, h⟩
    · obtain ⟨n', tx, len, hn', htx, hl, rfl⟩ := flattenStep_eq_next.1 h
      obtain rfl : n = n' := by simpa [hn] using hn'
      exact .inr (.inr (.inl ⟨hst, hp, ops, n, i, tx, len, ho, hn, hi, htx, hl, rfl⟩))
    · obtain ⟨n', len, rx, cur, res, l, r, hn', hl, hrx, hc, hr, hli, hpa, rfl⟩ := demuxStep_eq_next.1 h
      obtain rfl : n = n' := by simpa [hn] using hn'
      exact .inr (.inr (.inr (.inr (.inr (.inr (.inr (.inr (.inl
        ⟨hst, hp, ops, n, i, len, rx, cur, res, l, r, ho, hn, hi, hl, hrx, hc, hr, hli, hpa, rfl⟩))))))))
  | none =>
    rw [step_coordinate hf] at h
    unfold coordinate at h
    cases hst : s.stage with
    | construction limits bus =>
      simp only [hst, Host.Outcome.next.injEq] at h
      exact .inl ⟨limits, bus, rfl, h.symm⟩
    | abandoned failed => simp [hst] at h
    | operational =>
      simp only [hst] at h
      right
      cases hp : s.phase with
      | idle =>
        simp only [hp, Host.Outcome.next.injEq] at h
        exact .inl ⟨rfl, rfl, h.symm⟩
      | flatten =>
        simp only [hp] at h
        obtain ⟨ops, ho, hi, h⟩ := atEnd_eq_next.1 h
        obtain ⟨tx, htx, rfl⟩ := issue_eq_next.1 h
        exact .inr (.inr (.inl ⟨rfl, rfl, ops, tx, ho, hi, htx, rfl⟩))
      | exchange =>
        simp only [hp, serveTransport] at h
        cases ha : s.answers with
        | nil =>
          simp only [ha, Host.Outcome.next.injEq] at h
          exact .inr (.inr (.inr (.inl ⟨rfl, rfl, rfl, h.symm⟩)))
        | cons a rest =>
          simp only [ha] at h
          rcases takeAnswer_eq_next.1 h with ⟨e, rfl, rfl⟩ | ⟨rx, tx, rfl, htx, he, rfl⟩ | ⟨rx, tx, rfl, htx, he, rfl⟩
          · exact .inr (.inr (.inr (.inr (.inl ⟨rfl, rfl, e, rest, rfl, rfl⟩))))
          · exact .inr (.inr (.inr (.inr (.inr (.inl ⟨rfl, rfl, rx, rest, tx, rfl, htx, he, rfl⟩)))))
          · exact .inr (.inr (.inr (.inr (.inr (.inr (.inl ⟨rfl, rfl, rx, rest, tx, rfl, htx, he, rfl⟩))))))
      | demux =>
        simp only [hp] at h
        obtain ⟨ops, ho, hi, h⟩ := atEnd_eq_next.1 h
        obtain ⟨res, hr, rfl⟩ := finish_eq_next.1 h
        exact .inr (.inr (.inr (.inr (.inr (.inr (.inr (.inr ⟨rfl, rfl, ops, res, ho, hi, hr, rfl⟩)))))))

end Sys2Proof.Machine
end

