-- ==== Sys2Proof/Laws/PerInstr.lean ====
section
/-! SUPPORT. Statements said once for every instruction, by its constructors. -/

/-! ### The encoded length is one control byte and the data bytes (R80) -/

/-- The encoding of the operation has `1 + D` bytes. -/
def Sys2Proof.Laws.EncodedLength.Statement (i : Sys2Proof.Instr) : Prop :=
  (Sys2Proof.encode i).length = 1 + i.dataCount

theorem Sys2Proof.Laws.EncodedLength.read (addr : Sys2Proof.Addr) (n : Nat) :
    Sys2Proof.Laws.EncodedLength.Statement (.read addr n) := by
  simp [Sys2Proof.Laws.EncodedLength.Statement, Sys2Proof.encode, Sys2Proof.readPayload, Sys2Proof.Instr.dataCount,
    Nat.add_comm]

theorem Sys2Proof.Laws.EncodedLength.write (addr : Sys2Proof.Addr) (data : List Sys2Proof.Byte) :
    Sys2Proof.Laws.EncodedLength.Statement (.write addr data) := by
  simp [Sys2Proof.Laws.EncodedLength.Statement, Sys2Proof.encode, Sys2Proof.writePayload, Sys2Proof.Instr.dataCount,
    Nat.add_comm]

/-! ### The control byte of an encoding has bit 1 clear and the operation's address in bits 7:2 (R81, R86) -/

/-- The encoding starts with a control byte whose reserved bit is clear and whose address field is the operation's. -/
def Sys2Proof.Laws.ControlByteFields.Statement (i : Sys2Proof.Instr) : Prop :=
  ∃ c rest, Sys2Proof.encode i = c :: rest ∧ Sys2Proof.reservedField c = 0 ∧ Sys2Proof.addrField c = i.addr

theorem Sys2Proof.Laws.ControlByteFields.read (addr : Sys2Proof.Addr) (n : Nat) :
    Sys2Proof.Laws.ControlByteFields.Statement (.read addr n) :=
  ⟨_, _, rfl, by revert addr; decide, by simp only [Sys2Proof.Instr.addr]; revert addr; decide⟩

theorem Sys2Proof.Laws.ControlByteFields.write (addr : Sys2Proof.Addr) (data : List Sys2Proof.Byte) :
    Sys2Proof.Laws.ControlByteFields.Statement (.write addr data) :=
  ⟨_, _, rfl, by revert addr; decide, by simp only [Sys2Proof.Instr.addr]; revert addr; decide⟩
end

