-- ==== Sys2Proof/Laws/Coordinator.lean ====
section
/-! SUPPORT. The two pure functions of R150 over lists, the slices, the fold, and the acceptance check. -/

namespace Sys2Proof.Machine

/-! ### Transmit lengths and the buffer (R24, R118) -/

@[simp] theorem encode_length (i : Instr) : (encode i).length = transmitLength i := rfl

theorem transmitLength_eq (i : Instr) : transmitLength i = 1 + i.dataCount := by
  cases i with
  | read addr n => exact Sys2Proof.Laws.EncodedLength.read addr n
  | write addr data => exact Sys2Proof.Laws.EncodedLength.write addr data

@[simp] theorem flattenAll_nil : flattenAll [] = [] := rfl

@[simp] theorem flattenAll_cons (i : Instr) (is : List Instr) : flattenAll (i :: is) = encode i ++ flattenAll is := rfl

@[simp] theorem flattenAll_append (as bs : List Instr) : flattenAll (as ++ bs) = flattenAll as ++ flattenAll bs := by
  simp [flattenAll]

/-- The first operation's run is cut off exactly by its transmit length (R94). -/
@[simp] theorem take_encode_append (i : Instr) (rest : List Byte) :
    (encode i ++ rest).take (transmitLength i) = encode i := List.take_left' (encode_length i)

@[simp] theorem drop_encode_append (i : Instr) (rest : List Byte) :
    (encode i ++ rest).drop (transmitLength i) = rest := List.drop_left' (encode_length i)

theorem flattenAll_length (ops : List Instr) : (flattenAll ops).length = (ops.map transmitLength).sum := by
  induction ops with
  | nil => rfl
  | cons i is ih => simp [ih]

/-- One more operation of a prefix (R143). -/
theorem flattenAll_take_succ {ops : List Instr} {n : Nat} {i : Instr} (h : ops[n]? = some i) :
    flattenAll (ops.take (n + 1)) = flattenAll (ops.take n) ++ encode i := by
  rw [List.take_add_one, h]; simp

/-- The lengths of a prefix, one operation longer (R143). -/
theorem lengths_take_succ {ops : List Instr} {n : Nat} {i : Instr} (h : ops[n]? = some i) :
    (ops.take (n + 1)).map transmitLength = (ops.take n).map transmitLength ++ [transmitLength i] := by
  rw [List.take_add_one, h]; simp

/-- A prefix and the next operation stay inside the buffer (R31). -/
theorem offset_add_le {ops : List Instr} {n : Nat} {i : Instr} (h : ops[n]? = some i) :
    ((ops.take n).map transmitLength).sum + transmitLength i ≤ (flattenAll ops).length := by
  have hs : (ops.take (n + 1) ++ ops.drop (n + 1)) = ops := List.take_append_drop _ _
  calc ((ops.take n).map transmitLength).sum + transmitLength i
      = (flattenAll (ops.take (n + 1))).length := by rw [flattenAll_length, lengths_take_succ h]; simp
    _ ≤ (flattenAll (ops.take (n + 1) ++ ops.drop (n + 1))).length := by
      rw [flattenAll_append, List.length_append]; exact Nat.le_add_right _ _
    _ = (flattenAll ops).length := by rw [hs]

/-! ### Slices -/

/-- The half-open slice is what `drop` and `take` give (R8). -/
theorem slice_eq (s : List Byte) (a l : Nat) : slice s a (a + l) = (s.drop a).take l := by
  simp [slice, List.drop_take]

theorem slice_length (s : List Byte) (a l : Nat) : (slice s a (a + l)).length = min l (s.length - a) := by
  simp [slice_eq]

/-- The recorded length of operation `n` (R25). -/
theorem lengths_getElem? {ops : List Instr} {n : Nat} {i : Instr} (h : ops[n]? = some i) :
    (ops.map transmitLength)[n]? = some (transmitLength i) := by
  simp [h]

/-- In a response of the buffer's length, the slice of operation `n` has that operation's length (R148). -/
theorem response_slice_length {ops : List Instr} {n : Nat} {i : Instr} {rx : List Byte} (h : ops[n]? = some i)
    (hlen : rx.length = (flattenAll ops).length) :
    ((rx.drop ((ops.take n).map transmitLength).sum).take (transmitLength i)).length = transmitLength i := by
  have := offset_add_le h
  rw [List.length_take, List.length_drop]; omega

/-! ### Parsing (R113, R116) -/

/-- The parse of a slice of the operation's own length exists and has the variant's type (R117). -/
theorem parse_of_length {i : Instr} {s : List Byte} (h : s.length = transmitLength i) :
    ∃ r, parse i s = some r ∧ ((∃ v, r = .value v) ↔ ∃ a n, i = .read a n) ∧ (r = .absent ↔ ∃ a d, i = .write a d) := by
  rw [transmitLength_eq] at h
  cases i with
  | read a n =>
    have h : s.length = 1 + n := h
    exact ⟨.value (fold (slice s 1 (1 + n))), by simp [parse, parseRead, h], by simp, by simp⟩
  | write a d => exact ⟨.absent, rfl, by simp, by simp⟩

/-- The parse of a Read of other lengths is not applied (D21). -/
theorem parseRead_eq_none {n : Nat} {s : List Byte} : parseRead n s = none ↔ s.length ≠ 1 + n := by
  simp [parseRead]

/-- A Read drops the first byte and folds the rest (R113). -/
theorem parseRead_cons (c : Byte) (d : List Byte) : parseRead d.length (c :: d) = some (.value (fold d)) := by
  simp [parseRead, slice, Nat.add_comm 1]

/-! ### The fold (R119) -/

/-- One step of the fold is a multiplication and an addition, since a byte is below 256 (R119 d). -/
theorem fold_step (r : Nat) (b : Byte) : (r <<< Config.wordBitCount) ||| b.toNat = 256 * r + b.toNat := by
  have hb : b.toNat < 2 ^ 8 := b.isLt
  rw [Config.wordBitCount, Nat.shiftLeft_eq, Nat.mul_comm r, ← Nat.two_pow_add_eq_or_of_lt hb]

@[simp] theorem fold_nil : fold [] = 0 := rfl

@[simp] theorem fold_concat (s : List Byte) (b : Byte) : fold (s ++ [b]) = 256 * fold s + b.toNat := by
  simp [fold, fold_step]

/-- The most significant byte's share (R57). -/
theorem fold_cons (b : Byte) (s : List Byte) : fold (b :: s) = b.toNat * 256 ^ s.length + fold s := by
  induction s using List.reverseRecOn with
  | nil => rw [show [b] = [] ++ [b] from rfl, fold_concat]; simp
  | append_singleton s x ih => rw [← List.cons_append, fold_concat, ih, fold_concat]; simp; ring

/-! ### Demultiplexing a whole response (R148, R150) -/

/-- One result per operation (R29). -/
theorem demuxAll_length {ops : List Instr} {rx : List Byte} {res : List Result} (h : demuxAll ops rx = some res) :
    res.length = ops.length := by
  induction ops generalizing rx res with
  | nil => simp [demuxAll] at h; simp [← h]
  | cons i is ih =>
    simp only [demuxAll] at h
    split at h
    · next r rs h1 h2 => cases h; simp [ih h2]
    · simp at h

/-- A response at least as long as the buffer has every slice (R148). -/
theorem demuxAll_total {ops : List Instr} {rx : List Byte} (h : (flattenAll ops).length ≤ rx.length) :
    ∃ res, demuxAll ops rx = some res := by
  induction ops generalizing rx with
  | nil => exact ⟨[], rfl⟩
  | cons i is ih =>
    simp only [flattenAll_cons, List.length_append, encode_length] at h
    obtain ⟨rs, hrs⟩ := ih (rx := rx.drop (transmitLength i)) (by simp; omega)
    obtain ⟨r, hr, -⟩ := parse_of_length (i := i) (s := rx.take (transmitLength i)) (by simp; omega)
    exact ⟨r :: rs, by simp [demuxAll, hr, hrs]⟩

/-- Operation `j` parses its own slice (R147, R148). -/
theorem demuxAll_getElem? {ops : List Instr} {rx : List Byte} {res : List Result} (h : demuxAll ops rx = some res)
    {j : Nat} {i : Instr} (hj : ops[j]? = some i) :
    res[j]? = parse i ((rx.drop ((ops.take j).map transmitLength).sum).take (transmitLength i))
      ∧ ∃ r, res[j]? = some r := by
  induction ops generalizing rx res j with
  | nil => simp at hj
  | cons k ks ih =>
    simp only [demuxAll] at h
    split at h
    · next r rs ha hb =>
      cases h
      cases j with
      | zero => simp at hj; subst hj; simp [ha]
      | succ j =>
        simp at hj
        simpa [List.drop_drop, Nat.add_comm] using ih hb hj
    · simp at h

/-- Demultiplexing goes on where the first operations' slices end (R147). -/
theorem demuxAll_append {as bs : List Instr} {rx : List Byte} {xs ys : List Result} (h1 : demuxAll as rx = some xs)
    (h2 : demuxAll bs (rx.drop (as.map transmitLength).sum) = some ys) :
    demuxAll (as ++ bs) rx = some (xs ++ ys) := by
  induction as generalizing rx xs with
  | nil => simp [demuxAll] at h1; simp at h2; simp [← h1, h2]
  | cons i is ih =>
    simp only [demuxAll] at h1
    split at h1
    · next r rs ha hb =>
      cases h1
      have := ih hb (by simpa [List.drop_drop, Nat.add_comm] using h2)
      simp [demuxAll, ha, this]
    · simp at h1

/-! ### The acceptance check (R12, R92) -/

/-- No reason to refuse is the same as being well-formed: the check of R92 and the predicate of R11 and R12 agree. -/
theorem refusalReasons_eq_nil {cap : Capacity} {ops : List Instr} :
    refusalReasons cap ops = [] ↔ transactionWellFormed cap ops = true := by
  have hl : ∀ i : Instr, 1 + i.dataCount = transmitLength i := fun i => (transmitLength_eq i).symm
  simp only [refusalReasons, List.filter_eq_nil_iff, List.mem_cons, List.not_mem_nil, or_false, forall_eq_or_imp,
    forall_eq, illFormedBecause, transactionWellFormed, Bool.and_eq_true, List.all_eq_true, Bool.not_eq_true,
    Bool.or_eq_false_iff, List.any_eq_false, Bool.not_eq_false', Bool.not_eq_true', hl]
  constructor
  · rintro ⟨h1, h2, h3, ⟨h4, h5⟩, h6⟩
    refine ⟨⟨⟨h1, h4⟩, fun i hi => ?_⟩, h6⟩
    have a := h2 i hi; have b := h3 i hi; have c := h5 i hi
    cases i with
    | read addr n =>
      simp only [Instr.wellFormed, Bool.and_eq_true, decide_eq_true_eq]
      simp only [Instr.addr] at a
      refine ⟨⟨by simpa using a, ?_⟩, by simpa using c⟩
      have : n ≠ 0 := by simpa using b
      omega
    | write addr data =>
      simp only [Instr.wellFormed, Bool.and_eq_true]
      exact ⟨by simpa [Instr.addr] using a, by simpa using c⟩
  · rintro ⟨⟨⟨h1, h4⟩, h⟩, h6⟩
    refine ⟨h1, fun i hi => ?_, fun i hi => ?_, ⟨h4, fun i hi => ?_⟩, h6⟩ <;>
      · have a := h i hi
        cases i <;> simp_all [Instr.wellFormed, Instr.addr] <;> omega

/-- What presenting a list does (R142, R92). -/
theorem presented_of_wellFormed {s : State} {ops : List Instr} (h : transactionWellFormed s.cap ops = true) :
    s.presented ops = s.accepted ops := by
  simp [State.presented, refusalReasons_eq_nil.2 h]

theorem presented_of_illFormed {s : State} {ops : List Instr} (h : transactionWellFormed s.cap ops = false) :
    s.presented ops = s.emit (.refused (refusalReasons s.cap ops)) := by
  have hne : refusalReasons s.cap ops ≠ [] := fun hn => by simp [refusalReasons_eq_nil.1 hn] at h
  unfold State.presented
  split
  · contradiction
  · next h' => rw [h']

/-- The three things the host's turn can do (R36, R142, R92). -/
theorem serveHost_cases (s : State) :
    serveHost s = s ∨
    (∃ ops rest, s.calls = ops :: rest ∧ serveHost s = (s.withCalls rest).accepted ops) ∨
    (∃ ops rest reasons, s.calls = ops :: rest ∧ serveHost s = (s.withCalls rest).emit (.refused reasons)) := by
  unfold serveHost
  cases hc : s.calls with
  | nil => exact .inl rfl
  | cons ops rest =>
    right
    simp only [State.presented]
    cases refusalReasons (s.withCalls rest).cap ops with
    | nil => exact .inl ⟨ops, rest, rfl, rfl⟩
    | cons r rs => exact .inr ⟨ops, rest, _, rfl, rfl⟩

/-! ### Where no operation is at the program counter (R27) -/

theorem fetched_eq_none_of_not_walks {s : State} (h : s.phase.walks = false) : fetched s = none := by
  simp [fetched, h]

theorem fetched_eq_none_of_end {s : State} {ops : List Instr} (ho : s.ops = some ops) (hi : s.idx = some ops.length) :
    fetched s = none := by
  simp [fetched, ho, hi]

theorem fetched_eq_none_of_construction {s : State} {l : BusLimits} {b : BusConfig} (h : s.stage = .construction l b) :
    fetched s = none := by
  simp [fetched, h]

/-! ### Runs -/

theorem steps_succ {n : Nat} {s t : State} (h : step s = .next t) : steps (n + 1) s = steps n t := by
  simp [steps, h]

theorem steps_add {m n : Nat} {s t : State} (h : steps m s = .next t) : steps (m + n) s = steps n t := by
  induction m generalizing s with
  | zero => simp [steps] at h; subst h; simp
  | succ m ih =>
    rw [Nat.add_right_comm]
    cases hs : step s with
    | next u => rw [steps_succ hs] at h ⊢; exact ih h
    | fault f => simp [steps, hs] at h
    | refused f => simp [steps, hs] at h

/-! ### Construction (R176, R181) -/

@[simp] theorem State.warned_stage (f : List CapabilityFlag) (s : State) : (s.warned f).stage = s.stage := by
  cases f <;> rfl

@[simp] theorem State.warned_cap (f : List CapabilityFlag) (s : State) : (s.warned f).cap = s.cap := by
  cases f <;> rfl

/-- What the parameter table asks of the limits (R6). -/
theorem busLimits_legal_iff {l : BusLimits} : l.legal = true ↔ l.supportedModes ≠ [] ∧ 0 < l.maxClockHz := by
  simp [BusLimits.legal]

/-- The stage the check leaves is a legal one (R188). -/
theorem State.checked_stage_legal (f : List Constraint) (s : State) : (s.checked f).stage.legal = true := by
  cases f <;> rfl

/-- A violated caller contract is what `WIDTHS_TRUE` and the address check rule out together (R173). -/
theorem not_callerContractViolated_iff {width : Addr → Nat} {ops : List Instr} :
    ¬ CallerContractViolated width ops ↔ WidthsTrue width ops ∧ ∀ i ∈ ops, Addr.valid i.addr = true := by
  simp only [CallerContractViolated, WidthsTrue, not_or, not_exists, not_and, ne_eq, not_not, Bool.not_eq_false]

@[simp] theorem State.checked_cap (f : List Constraint) (s : State) : (s.checked f).cap = s.cap := by
  cases f <;> rfl

/-- Construction touches the stage and the history alone (R39: it touches no working register). -/
theorem construct_eq (limits : BusLimits) (bus : BusConfig) (s : State) :
    ∃ g events, construct limits bus s = { s with stage := g, history := s.history ++ events } := by
  unfold construct State.checked State.warned
  cases failedConstraints limits bus <;> cases unrecognisedFlags limits bus
  · exact ⟨.operational, [], by simp [State.withStage]⟩
  · exact ⟨_, _, rfl⟩
  · exact ⟨_, _, rfl⟩
  · next c cs f fs =>
    exact ⟨.abandoned (c :: cs), [.configurationError (c :: cs), .configurationWarning (f :: fs)],
      by simp [State.withStage, State.emit]⟩

end Sys2Proof.Machine
end

