-- ==== Sys2Proof/Laws/Text.lean ====
section
/-! SUPPORT. Reading the text form piece by piece: token runs and numerals. -/

namespace Sys2Proof.Machine

/-- A run of tokens is read in two parts. -/
theorem readTokens_append (p : Reading) (xs ys : List Token) :
    readTokens p (xs ++ ys) = (readTokens p xs).bind fun q => readTokens q ys := by
  induction xs generalizing p with
  | nil => rfl
  | cons t ts ih => simp only [List.cons_append, readTokens, ih, Option.bind_assoc]

/-- A numeral is read in two parts. -/
theorem numeral_append (base v : Nat) (xs ys : List Char) :
    numeral base v (xs ++ ys) = (numeral base v xs).bind fun w => numeral base w ys := by
  induction xs generalizing v with
  | nil => rfl
  | cons c cs ih => simp only [List.cons_append, numeral, ih, Option.bind_assoc]

/-- A digit is read as its value, in every base up to 16. -/
theorem digit_digitChar : ∀ v < 16, ∀ base ≤ 16, v < base → digit base (digitChar v) = some v := by decide

/-- The digits written for a number are read as that number. -/
theorem numeral_digitChars {base fuel n : Nat} (hb : 2 ≤ base) (hb' : base ≤ 16) (h : n < fuel) :
    numeral base 0 (digitChars base fuel n) = some n := by
  induction fuel generalizing n with
  | zero => omega
  | succ fuel ih =>
    unfold digitChars
    split
    · next hn => simp [numeral, digit_digitChar n (by omega) base hb' hn]
    · next hn =>
      have hd : n / base < n := Nat.div_lt_self (by omega) (by omega)
      have hm : n % base < base := Nat.mod_lt _ (by omega)
      rw [numeral_append, ih (by omega)]
      simp [numeral, digit_digitChar _ (by omega : n % base < 16) base hb' hm, Nat.div_add_mod]

end Sys2Proof.Machine
end

