-- ==== Sys2Proof/Tests/Slice0.lean ====
section
/-! SUPPORT. The model's own tests: ill-formed terms, words and steps with results taken from the spec's vectors
(95_test_vectors.md, group named in each docstring), and for every obligation with hypotheses a witness that meets
them. -/

namespace Sys2Proof.Machine.Tests

/-! ### Helpers -/

/-- The next state of an outcome. -/
def after : StepOutcome → Option State
  | .next t => some t
  | .fault _ => none
  | .refused _ => none

/-- The source's end-to-end transaction (S5). -/
def s5 : List Instr := [.read 0x07 3, .write 0x02 [0x12, 0x34]]

/-- Its transmit buffer (S5). -/
def s5Tx : List Byte := [0x1D, 0xFF, 0xFF, 0xFF, 0x08, 0x12, 0x34]

/-- The answer chosen in P1. -/
def p1Rx : List Byte := [0x00, 0x00, 0x01, 0x00, 0x00, 0x00, 0x00]

/-- Capacities just large enough for S5 and no larger (00_scope.md parameter table). -/
def tight : Capacity := { maxOps := some 2, maxN := some 3, maxData := some 2, maxTx := some 7 }

/-- The host is about to call, the transport is about to give this answer. -/
def calling (ops : List Instr) (a : Answer) : State := { State.reset with calls := [ops], answers := [a] }

/-- P1 in FLATTEN at operation `n`. -/
def flat (n : Nat) : State :=
  { State.reset with
    phase := .flatten, ops := some s5, idx := some n, tx := some (flattenAll (s5.take n)),
    len := some ((s5.take n).map transmitLength), res := some [] }

/-- P1 in EXCHANGE with these answers to come. -/
def exch (answers : List Answer) : State :=
  { State.reset with
    phase := .exchange, ops := some s5, idx := some 2, tx := some s5Tx, len := some [4, 3], res := some [],
    answers := answers }

/-- P1 in DEMUX at operation `n`. -/
def dem (n cur : Nat) (res : List Result) : State :=
  { State.reset with
    phase := .demux, ops := some s5, idx := some n, tx := some s5Tx, len := some [4, 3], rx := some p1Rx,
    cur := some cur, res := some res }

/-- The limits of group V8, with `m1 = 1`, `C = 10`. -/
def v8 : BusLimits := { supportedModes := [1], maxClockHz := 10, knownFlags := [] }

/-- A configuration of group V8. -/
def v8Bus (mode speed : Nat) (o : BitOrder) (w : Nat) (flags : List CapabilityFlag) : BusConfig :=
  { mode := mode, speedHz := speed, bitOrder := o, wordBits := w, flags := flags }

/-! ### Well-formedness: one ill-formed term for each check (R11, R12; V7) -/

theorem test_wf_accepts : transactionWellFormed tight s5 = true := by decide
theorem test_wf_bad_address_read : Instr.wellFormed .unbounded (.read 0x12 2) = false := by decide
theorem test_wf_bad_address_write : Instr.wellFormed .unbounded (.write 0x3D [0x00]) = false := by decide
theorem test_wf_zero_width : Instr.wellFormed .unbounded (.read 0x07 0) = false := by decide
theorem test_wf_read_too_long : Instr.wellFormed tight (.read 0x09 4) = false := by decide
theorem test_wf_write_too_long : Instr.wellFormed tight (.write 0x02 [1, 2, 3]) = false := by decide
theorem test_wf_empty_write : Instr.wellFormed tight (.write 0x0B []) = true := by decide
theorem test_wf_empty_transaction : transactionWellFormed .unbounded [] = false := by decide
theorem test_wf_too_many : transactionWellFormed tight [.read 0 1, .read 0 1, .read 0 1] = false := by decide
theorem test_wf_buffer_too_long : transactionWellFormed tight [.read 0x07 3, .read 0x07 3] = false := by decide
theorem test_capacity_not_legal : Capacity.legal { tight with maxTx := some 6 } = false := by decide
/-- A ceiling of 0 and an empty set of modes are no limits (00_scope.md parameter table). -/
theorem test_limits_not_legal : BusLimits.legal { v8 with maxClockHz := 0 } = false
    ∧ BusLimits.legal { v8 with supportedModes := [] } = false := by decide
theorem test_capacity_legal : tight.legal = true ∧ Capacity.unbounded.legal = true := by decide

/-! ### Decoding: words written out from the encodings (R83, R84, R90, R93) -/

/-- `aaaaaa01` with 000111: control byte 00011101, three fillers (V2.3). -/
theorem test_decode_read : (decode [0b00011101, 0xFF, 0xFF, 0xFF]).toOption = some (.read 0x07 3) := by decide
/-- `aaaaaa00` with 000010: control byte 00001000 (V4.1). -/
theorem test_decode_write : (decode [0b00001000, 0x12, 0x34]).toOption = some (.write 0x02 [0x12, 0x34]) := by decide
/-- The largest address, both variants (R90: 11111101 and 11111100). -/
theorem test_decode_top : (decode [0b11111101, 0xFF]).toOption = some (.read 0x3F 1)
    ∧ (decode [0b11111100]).toOption = some (.write 0x3F []) := by decide
theorem test_decode_reserved : (decode [0b00000010]).toOption = none ∧ (decode [0x48]).toOption = none
    ∧ (decode [0x1D]).toOption = none ∧ (decode [0x1D, 0x00]).toOption = none ∧ (decode []).toOption = none := by decide
/-- The table's two words. -/
theorem test_decode_table : decodeTableWord 8 0x01 = some (.read 0x00 1)
    ∧ decodeTableWord 8 0x00 = some (.write 0x00 []) ∧ decodeTableWord 8 0x02 = none := by decide
/-- A table word placed after reset runs in the next step. -/
theorem test_table_word_runs : ((after (step (State.reset.withFetchWord 8 0x01))).map State.tx) = some (some [0x01, 0xFF])
    ∧ ((after (step (State.reset.withFetchWord 8 0x00))).map State.tx) = some (some [0x00]) := by decide

/-! ### READ and WRITE, one step each (P1; V5.7) -/

theorem test_read_flatten : (after (exec (.read 0x07 3) (flat 0))).map (fun t => (t.tx, t.len, t.idx))
    = some (some [0x1D, 0xFF, 0xFF, 0xFF], some [4], some 1) := by decide
theorem test_read_demux : (after (exec (.read 0x07 3) (dem 0 0 []))).map (fun t => (t.res, t.cur, t.idx))
    = some (some [.value 256], some 4, some 1) := by decide
theorem test_write_flatten : (after (exec (.write 0x02 [0x12, 0x34]) (flat 1))).map (fun t => (t.tx, t.len, t.idx))
    = some (some s5Tx, some [4, 3], some 2) := by decide
theorem test_write_demux : (after (exec (.write 0x02 [0x12, 0x34]) (dem 1 4 [.value 256]))).map (fun t => (t.res, t.cur))
    = some (some [.value 256, .absent], some 7) := by decide

/-! ### The parse (V3) -/

theorem test_parse_beyond_32_bits :
    parse (.read 0x09 5) [0x12, 0xFF, 0xFF, 0xFF, 0xFF, 0xFF] = some (.value 1099511627775) := by decide
theorem test_parse_order : parse (.read 0x00 2) [0x00, 0x34, 0x12] = some (.value 13330)
    ∧ parse (.read 0x00 2) [0x00, 0x00, 0x00] = some (.value 0) ∧ parse (.read 0x00 2) [0x00, 0x01] = none := by decide

/-! ### The coordinator, one step each (P1, V6, V7, P5) -/

theorem test_accept : (after (step (calling s5 (.bytes p1Rx)))).map (fun t => (t.phase, t.idx, t.tx))
    = some (.flatten, some 0, some []) := by decide
theorem test_refuse_bad_address : (after (step (calling [.read 0x07 3, .read 0x20 2] (.bytes [])))).map
    (fun t => (t.phase, t.tx, t.history)) = some (.idle, none, [.refused [.badAddress]]) := by decide
theorem test_refuse_empty : (after (step (calling [] (.bytes [])))).map State.history
    = some [.refused [.emptyTransaction]] := by decide
theorem test_refuse_zero_width : (after (step (calling [.read 0x07 0] (.bytes [])))).map State.history
    = some [.refused [.zeroWidthRead]] := by decide
theorem test_refuse_too_long : (after (step { calling [.read 0x09 5] (.bytes []) with cap := tight })).map State.history
    = some [.refused [.tooLong]] := by decide
theorem test_issue : (after (step (flat 2))).map (fun t => (t.phase, t.history)) = some (.exchange, [.transfer s5Tx]) := by
  decide
theorem test_answer : (after (step (exch [.bytes p1Rx]))).map (fun t => (t.phase, t.cur, t.idx, t.rx))
    = some (.demux, some 0, some 0, some p1Rx) := by decide
theorem test_answer_short : (after (step (exch [.bytes [0, 0, 1, 0, 0, 0]]))).map (fun t => (t.phase, t.tx, t.history))
    = some (.idle, none, [.abort (.protocolInvariantViolation 7 6)]) := by decide
theorem test_answer_long : (after (step (exch [.bytes [0, 0, 1, 0, 0, 0, 0, 0]]))).map State.history
    = some [.abort (.protocolInvariantViolation 7 8)] := by decide
theorem test_answer_fail : (after (step (exch [.fail 5]))).map (fun t => (t.phase, t.history))
    = some (.idle, [.abort (.transportFailure 5)]) := by decide
theorem test_hang : after (step (exch [])) = some (exch []) := by decide
theorem test_return : (after (step (dem 2 7 [.value 256, .absent]))).map (fun t => (t.phase, t.res, t.history))
    = some (.idle, none, [.results [.value 256, .absent]]) := by decide
/-- S6: the second line's answer. -/
theorem test_outcome_s6 : outcomeOf [.read 0x3E 2, .read 0x05 3] (.bytes [0x11, 0x54, 0x49, 0xEE, 0xDD, 0xCC, 0xBB])
    = some (.results [.value 21577, .value 14535867]) := by decide
/-- V5.6: an empty Write between two Reads of one register. -/
theorem test_outcome_v5_6 : flattenAll [.read 0x0B 2, .write 0x0B [], .read 0x0B 2]
      = [0x2D, 0xFF, 0xFF, 0x2C, 0x2D, 0xFF, 0xFF]
    ∧ outcomeOf [.read 0x0B 2, .write 0x0B [], .read 0x0B 2] (.bytes [0x01, 0x00, 0x01, 0x02, 0x03, 0x80, 0x00])
      = some (.results [.value 1, .absent, .value 32768]) := by decide

/-! ### Construction (V8) -/

theorem test_config_equal_speed : failedConstraints v8 (v8Bus 1 10 .msbFirst 8 []) = [] := by decide
theorem test_config_failures : failedConstraints v8 (v8Bus 2 11 .msbFirst 8 []) = [.mode, .speed]
    ∧ failedConstraints v8 (v8Bus 1 10 .lsbFirst 8 []) = [.bitOrder]
    ∧ failedConstraints v8 (v8Bus 1 10 .msbFirst 16 []) = [.wordSize] := by decide
theorem test_config_warning : (after (step (State.atConstruction v8 (v8Bus 1 10 .msbFirst 8 [9])))).map
    (fun t => (t.stage, t.history)) = some (.operational, [.configurationWarning [9]]) := by decide
theorem test_config_error_and_warning : (after (step (State.atConstruction v8 (v8Bus 2 10 .msbFirst 8 [9])))).map
    (fun t => (t.stage, t.history))
      = some (.abandoned [.mode], [.configurationError [.mode], .configurationWarning [9]]) := by decide

/-! ### The text form (R95; P1, V5.2) -/

/-- `OPERATE`, opening brace, newline, `READ CURRENT, 3`, newline, `WRITE SHUNT_CAL, [0x12, 0x34]`, newline, closing
brace. -/
theorem test_text_p1 : parseTransaction [.operate, .openBrace, .newline, .read, .name .current, .comma, .dec 3, .newline,
    .write, .name .shuntCal, .comma, .openBracket, .hex 0x12, .comma, .hex 0x34, .closeBracket, .newline, .closeBrace]
      = some s5 := by decide
theorem test_text_refuses : parseTransaction [.operate, .openBrace, .read, .hex 64, .comma, .dec 1, .closeBrace] = none
    ∧ parseTransaction [.operate, .openBrace, .read, .hex 7, .comma, .dec 1, .semicolon, .closeBrace] = none := by decide
theorem test_lex : tokenize [] ['W', 'R', 'I', 'T', 'E', ' ', '0', 'x', '0', 'B', ',', ' ', '[', ']']
    = some [.write, .hex 11, .comma, .openBracket, .closeBracket]
    ∧ tokenize [] ['0', 'x', 'f', 'D', ';', '1', '2'] = some [.hex 253, .semicolon, .dec 12]
    ∧ tokenize [] ['0', 'x'] = none := by decide
/-- Digits as R95 writes them, most significant first. -/
theorem test_text_written : textOf [.hex 0x1F, .dec 20] = ['0', 'x', '1', 'F', ' ', '2', '0', ' '] := by decide

/-! ### Witnesses: every obligation with hypotheses has a state and operands that meet them together -/

theorem flat_inv (n : Nat) (h : n ≤ s5.length) : Invariant (flat n) :=
  ⟨⟨rfl, rfl⟩, fun hne => absurd rfl hne, s5, n, by simp only [flat, State.reset]; decide, h, rfl, rfl, rfl, rfl, rfl, rfl, rfl⟩

theorem exch_inv (answers : List Answer) : Invariant (exch answers) :=
  ⟨⟨by simp [exch, State.reset]; decide, rfl⟩, fun h => absurd rfl h, s5, by simp [exch, State.reset]; decide, rfl, rfl,
    by simp [exch]; decide, by simp [exch]; decide, rfl, rfl, rfl⟩

theorem dem_inv : Invariant (dem 0 0 []) :=
  ⟨⟨by decide, rfl⟩, fun h => absurd rfl h, s5, 0, p1Rx, [], by decide, by decide, rfl, rfl, by decide, by decide, rfl,
    by decide, by decide, rfl, by decide⟩

theorem dem_end_inv : Invariant (dem 2 7 [.value 256, .absent]) :=
  ⟨⟨by decide, rfl⟩, fun h => absurd rfl h, s5, 2, p1Rx, [.value 256, .absent], by decide, by decide, rfl, rfl, by decide,
    by decide, rfl, by decide, by decide, rfl, by decide⟩

theorem idle_inv : Invariant (calling s5 (.bytes p1Rx)) :=
  ⟨⟨by decide, rfl⟩, fun _ => rfl, rfl, rfl, rfl, rfl, rfl, rfl, rfl⟩

theorem witness_DecodeEncodeRoundTrip : (Instr.read 0x3F 3).wellFormed tight = true
    ∧ (Instr.write 0x11 []).wellFormed tight = true := by decide
theorem witness_DecodedBytesAreThePayload : (decode [0xFD, 0xFF]).toOption = some (.read 0x3F 1) := by decide
theorem witness_ReservedPatternsRefused : (0b00000010 : Byte).extractLsb' 1 1 ≠ 0 ∧ (0x48 : Byte).extractLsb' 1 1 = 0
    ∧ (0x48 : Byte).extractLsb' 2 6 ∉ Config.validAddr ∧ (0xF4 : Byte).extractLsb' 2 6 ∉ Config.validAddr
    ∧ (0x3F : Addr) ∈ Config.validAddr ∧ ∃ b ∈ ([0xFF, 0xFE] : List Byte), b ≠ 0xFF := by decide
theorem witness_BufferDecodesWithLengths : transactionWellFormed tight s5 = true := by decide
theorem witness_ControlBytesDistinct : controlByte 0x3F 1 = controlByte 0x3F 1 := rfl
theorem witness_ReadParseOtherLength : ([0x00, 0x01] : List Byte).length ≠ 1 + 2 := by decide
theorem witness_FoldIsBijective : (255 : Nat) < 256 ^ 1 ∧ fold [0x01, 0x00] = fold [0x01, 0x00] := by decide
theorem witness_ReadMeaning_flatten : (flat 0).phase = .flatten ∧ (flat 0).idx = some 0 ∧ (flat 0).tx = some []
    ∧ (flat 0).len = some [] := by decide
theorem witness_ReadMeaning_demux : (dem 0 0 []).phase = .demux ∧ (dem 0 0 []).idx = some 0
    ∧ (dem 0 0 []).tx = some s5Tx ∧ (dem 0 0 []).len = some [4, 3] ∧ (dem 0 0 []).rx = some p1Rx
    ∧ (dem 0 0 []).res = some [] ∧ (dem 0 0 []).cur = some (([4, 3] : List Nat).take 0).sum
    ∧ ([4, 3] : List Nat)[0]? = some (1 + 3) ∧ (([4, 3] : List Nat).take 0).sum + (1 + 3) ≤ p1Rx.length := by decide
theorem witness_WriteMeaning_flatten : (flat 1).phase = .flatten ∧ (flat 1).idx = some 1
    ∧ (flat 1).tx = some [0x1D, 0xFF, 0xFF, 0xFF] ∧ (flat 1).len = some [4] := by decide
theorem witness_WriteMeaning_demux : (dem 1 4 [.value 256]).phase = .demux ∧ (dem 1 4 [.value 256]).idx = some 1
    ∧ (dem 1 4 [.value 256]).tx = some s5Tx ∧ (dem 1 4 [.value 256]).len = some [4, 3]
    ∧ (dem 1 4 [.value 256]).rx = some p1Rx ∧ (dem 1 4 [.value 256]).res = some [.value 256]
    ∧ (dem 1 4 [.value 256]).cur = some (([4, 3] : List Nat).take 1).sum
    ∧ ([4, 3] : List Nat)[1]? = some (1 + ([0x12, 0x34] : List Byte).length) := by decide
theorem witness_OperationFrame : ∃ t u, exec (.read 0x07 3) (flat 0) = .next t
    ∧ exec (.read 0x07 3) (dem 0 0 []) = .next u := ⟨_, _, rfl, rfl⟩
theorem witness_OperationOutsideWalkStops : State.reset.phase = .idle ∧ (exch []).phase = .exchange := by decide
theorem witness_ReadOfOtherSliceLengthRefused : (dem 0 0 []).phase = .demux ∧ (dem 0 0 []).idx = some 0
    ∧ (dem 0 0 []).len = some [4, 3] ∧ (dem 0 0 []).rx = some p1Rx ∧ (dem 0 0 []).cur = some 0
    ∧ (dem 0 0 []).res = some [] ∧ ([4, 3] : List Nat)[0]? = some 4 ∧ min 4 (p1Rx.length - 0) ≠ 1 + 2
    ∧ min 4 (p1Rx.length - 0) ≠ 1 + 4 := by decide
theorem witness_RegisterWithoutValueFaults : ({ flat 0 with len := none } : State).phase = .flatten
    ∧ ({ flat 0 with len := none } : State).lacks .len = true
    ∧ ({ dem 0 0 [] with res := none } : State).phase = .demux
    ∧ ({ dem 0 0 [] with res := none } : State).lacks .res = true
    ∧ (exch []).stage = .operational ∧ ({ flat 0 with idx := none } : State).lacks .idx = true
    ∧ ({ exch [.bytes p1Rx] with tx := none } : State).lacks .tx = true := by decide
theorem witness_RegisterWithoutValueFaults_ends : WalkEnded { flat 2 with tx := none }
    ∧ ({ flat 2 with tx := none } : State).lacks .tx = true
    ∧ WalkEnded { dem 2 7 [] with res := none } ∧ ({ dem 2 7 [] with res := none } : State).lacks .res = true :=
  ⟨⟨s5, rfl, rfl⟩, rfl, ⟨s5, rfl, rfl⟩, rfl⟩
theorem witness_StepRunsFetchedOperation : (flat 1).stage = .operational ∧ (flat 1).phase = .flatten
    ∧ (flat 1).ops = some s5 ∧ (flat 1).idx = some 1 ∧ s5[1]? = some (.write 0x02 [0x12, 0x34]) := by decide
theorem witness_StepRunsFetchedOperation_demux : (dem 1 4 []).stage = .operational ∧ (dem 1 4 []).phase = .demux
    ∧ (dem 1 4 []).ops = some s5 ∧ (dem 1 4 []).idx = some 1 := by decide
theorem witness_StepRunsPlacedWord : decodeTableWord 8 0xFD = some (.read 0x3F 1) := by decide
theorem witness_AcceptStartsFlattening : (calling s5 (.bytes p1Rx)).stage = .operational
    ∧ (calling s5 (.bytes p1Rx)).phase = .idle ∧ (calling s5 (.bytes p1Rx)).calls = [s5]
    ∧ transactionWellFormed (calling s5 (.bytes p1Rx)).cap s5 = true := by decide
theorem witness_IllFormedListRefused : (calling [.read 0x12 0] (.bytes [])).stage = .operational
    ∧ (calling [.read 0x12 0] (.bytes [])).phase = .idle ∧ (calling [.read 0x12 0] (.bytes [])).calls = [[.read 0x12 0]]
    ∧ transactionWellFormed (calling [.read 0x12 0] (.bytes [])).cap [.read 0x12 0] = false := by decide
theorem witness_FlattenStepAppendsPayload : Invariant (flat 1) ∧ (flat 1).phase = .flatten ∧ (flat 1).ops = some s5
    ∧ (flat 1).idx = some 1 ∧ s5[1]? = some (.write 0x02 [0x12, 0x34]) := ⟨flat_inv 1 (by decide), rfl, rfl, rfl, rfl⟩
theorem witness_IssueSendsTheBuffer : Invariant (flat 2) ∧ (flat 2).phase = .flatten ∧ (flat 2).ops = some s5
    ∧ (flat 2).idx = some s5.length := ⟨flat_inv 2 (by decide), rfl, rfl, rfl⟩
theorem witness_WaitingChangesNothing : (exch []).stage = .operational ∧ (exch []).phase = .exchange
    ∧ (exch []).answers = [] ∧ State.reset.stage = .operational ∧ State.reset.phase = .idle
    ∧ State.reset.calls = [] := by decide
theorem witness_LengthCheckBeforeParsing : (exch [.bytes p1Rx]).stage = .operational
    ∧ (exch [.bytes p1Rx]).phase = .exchange ∧ (exch [.bytes p1Rx]).tx = some s5Tx
    ∧ (exch [.bytes p1Rx]).answers = [.bytes p1Rx] ∧ p1Rx.length = s5Tx.length
    ∧ (exch [.bytes []]).tx = some s5Tx ∧ (exch [.bytes []]).answers = [.bytes []]
    ∧ ([] : List Byte).length ≠ s5Tx.length := by decide
theorem witness_TransportFailureAborts : (exch [.fail 0]).stage = .operational ∧ (exch [.fail 0]).phase = .exchange
    ∧ (exch [.fail 0]).answers = [.fail 0] := by decide
theorem witness_DemultiplexStepParsesOneSlice : Invariant (dem 0 0 []) ∧ (dem 0 0 []).phase = .demux
    ∧ (dem 0 0 []).ops = some s5 ∧ (dem 0 0 []).idx = some 0 ∧ s5[0]? = some (.read 0x07 3) :=
  ⟨dem_inv, rfl, rfl, rfl, rfl⟩
theorem witness_ReturnSendsResults : Invariant (dem 2 7 [.value 256, .absent])
    ∧ (dem 2 7 [.value 256, .absent]).phase = .demux ∧ (dem 2 7 [.value 256, .absent]).ops = some s5
    ∧ (dem 2 7 [.value 256, .absent]).idx = some s5.length := ⟨dem_end_inv, rfl, rfl, rfl⟩
theorem witness_AbortEntry : ∃ t, (exch [.fail 0]).phase = .exchange ∧ step (exch [.fail 0]) = .next t
    ∧ t.phase = .idle := ⟨_, rfl, rfl, rfl⟩
theorem witness_InvariantPreserved : ∃ t u v, Invariant (flat 0) ∧ step (flat 0) = .next t ∧ Invariant (dem 0 0 [])
    ∧ step (dem 0 0 []) = .next u ∧ Invariant (calling s5 (.bytes p1Rx)) ∧ step (calling s5 (.bytes p1Rx)) = .next v :=
  ⟨_, _, _, flat_inv 0 (by decide), rfl, dem_inv, rfl, idle_inv, rfl⟩
theorem witness_BuiltCoreAlwaysSteps : Invariant (dem 0 0 []) ∧ ∀ failed, (dem 0 0 []).stage ≠ .abandoned failed :=
  ⟨dem_inv, by intro f; simp [dem, State.reset]⟩
theorem witness_OperateAnswered : ConfigOk (calling s5 (.bytes p1Rx)) ∧ IdleAtStart (calling s5 (.bytes p1Rx))
    ∧ (calling s5 (.bytes p1Rx)).calls = [s5] ∧ (calling s5 (.bytes p1Rx)).answers = [.bytes p1Rx]
    ∧ transactionWellFormed (calling s5 (.bytes p1Rx)).cap s5 = true
    ∧ p1Rx.length = (s5.map encode).flatten.length :=
  ⟨rfl, ⟨rfl, rfl, rfl, rfl, rfl, rfl, rfl, rfl⟩, rfl, rfl, by decide, by decide⟩
theorem witness_OperateAnswered_aborts : ConfigOk (calling s5 (.fail 0)) ∧ IdleAtStart (calling s5 (.fail 0))
    ∧ (calling s5 (.fail 0)).calls = [s5] ∧ (calling s5 (.fail 0)).answers = [.fail 0]
    ∧ transactionWellFormed (calling s5 (.fail 0)).cap s5 = true
    ∧ (calling s5 (.bytes [])).answers = [.bytes []] ∧ ([] : List Byte).length ≠ (s5.map encode).flatten.length :=
  ⟨rfl, ⟨rfl, rfl, rfl, rfl, rfl, rfl, rfl, rfl⟩, rfl, rfl, by decide, rfl, by decide⟩
theorem witness_OperateUnanswered : ConfigOk { State.reset with calls := [s5] }
    ∧ IdleAtStart { State.reset with calls := [s5] } ∧ ({ State.reset with calls := [s5] } : State).calls = [s5]
    ∧ ({ State.reset with calls := [s5] } : State).answers = []
    ∧ transactionWellFormed ({ State.reset with calls := [s5] } : State).cap s5 = true :=
  ⟨rfl, ⟨rfl, rfl, rfl, rfl, rfl, rfl, rfl, rfl⟩, rfl, rfl, by decide⟩
theorem witness_CallsAreStateless :
    let s₁ := calling s5 (.bytes p1Rx)
    let s₂ := { calling s5 (.bytes p1Rx) with history := [.refused [.badAddress]] }
    ConfigOk s₁ ∧ ConfigOk s₂ ∧ IdleAtStart s₁ ∧ IdleAtStart s₂ ∧ s₁.cap = s₂.cap ∧ s₁.calls = [s5] ∧ s₂.calls = [s5]
      ∧ s₁.answers = [.bytes p1Rx] ∧ s₂.answers = [.bytes p1Rx] :=
  ⟨rfl, rfl, ⟨rfl, rfl, rfl, rfl, rfl, rfl, rfl, rfl⟩, ⟨rfl, rfl, rfl, rfl, rfl, rfl, rfl, rfl⟩, rfl, rfl, rfl, rfl, rfl⟩
theorem witness_HistoryIsOnlyAddedTo : ∃ t, step (flat 2) = .next t := ⟨_, rfl⟩
theorem witness_StepsFollowTheAlgorithm : ∃ t u, Invariant (exch [.bytes p1Rx]) ∧ step (exch [.bytes p1Rx]) = .next t
    ∧ Invariant (flat 2) ∧ step (flat 2) = .next u ∧ u.phase = .exchange ∧ WalkEnded (flat 2) :=
  ⟨_, _, exch_inv _, rfl, flat_inv 2 (by decide), rfl, rfl, s5, rfl, rfl⟩
theorem witness_TransmitBufferIsTheConcatenation : Invariant (exch []) ∧ (exch []).phase = .exchange ∧ Invariant (dem 0 0 [])
    ∧ (dem 0 0 []).phase = .demux := ⟨exch_inv _, rfl, dem_inv, rfl⟩
theorem witness_BorrowedListUnchanged : ∃ t, (dem 0 0 []).phase ≠ .idle ∧ step (dem 0 0 []) = .next t
    ∧ (dem 0 0 []).stage = .operational := ⟨_, by decide, rfl, rfl⟩
theorem witness_TransferOnlyAtIssue : ∃ t, Invariant (flat 2) ∧ step (flat 2) = .next t ∧ (flat 2).phase = .flatten
    ∧ t.phase = .exchange := ⟨_, flat_inv 2 (by decide), rfl, rfl, rfl⟩
theorem witness_TransferOnlyAtIssue_accept : ∃ t, Invariant (calling s5 (.bytes p1Rx))
    ∧ step (calling s5 (.bytes p1Rx)) = .next t ∧ t.phase = .flatten := ⟨_, idle_inv, rfl, rfl⟩
theorem witness_OutcomeProperties : p1Rx.length = (flattenAll s5).length ∧ s5[1]? = some (.write 0x02 [0x12, 0x34])
    ∧ ([] : List Byte).length ≠ (flattenAll s5).length := by decide
theorem witness_SlicesMatchPayloads : p1Rx.length = (flattenAll s5).length ∧ s5[0]? = some (.read 0x07 3) := by decide
theorem witness_TransactionsCompose : (p1Rx.take 4).length = (flattenAll [.read 0x07 3]).length
    ∧ (p1Rx.drop 4).length = (flattenAll [.write 0x02 [0x12, 0x34]]).length := by decide
theorem witness_InputsTakenInOrder : ∃ t u, step (calling s5 (.bytes p1Rx)) = .next t
    ∧ step (exch [.fail 0]) = .next u := ⟨_, _, rfl, rfl⟩
theorem witness_ParametersAndStageFixed : ∃ t, step (flat 0) = .next t
    ∧ ∀ limits bus, (flat 0).stage ≠ .construction limits bus := ⟨_, rfl, by intro l b; simp [flat, State.reset]⟩
theorem witness_ConfigurationCheck :
    (State.atConstruction v8 (v8Bus 2 11 .lsbFirst 16 [])).stage = .construction v8 (v8Bus 2 11 .lsbFirst 16 [])
    ∧ (v8Bus 2 11 .lsbFirst 16 []).flags = [] := by decide
theorem witness_UnknownFlagsOnlyWarn :
    (State.atConstruction v8 (v8Bus 1 10 .msbFirst 8 [9])).stage = .construction v8 (v8Bus 1 10 .msbFirst 8 [9])
    ∧ ∃ f ∈ (v8Bus 1 10 .msbFirst 8 [9]).flags, f ∉ v8.knownFlags := by decide
theorem witness_AbandonedBlockNeverRuns : ({ State.reset with stage := .abandoned [.mode] } : State).stage
    = .abandoned [.mode] := rfl
theorem witness_LegalLimitsAdmitAConfiguration : v8.legal = true ∧ 0 < (v8Bus 1 10 .msbFirst 8 []).speedHz := by decide
theorem witness_ErrorsRaisedAsTabled : ∃ t u, step (exch [.fail 5]) = .next t
    ∧ t.history = (exch [.fail 5]).history ++ [.abort (.transportFailure 5)]
    ∧ step (State.atConstruction v8 (v8Bus 2 10 .msbFirst 8 [9])) = .next u
    ∧ u.history = [] ++ [.configurationError [.mode], .configurationWarning [9]]
    ∧ (Event.abort (.protocolInvariantViolation 7 6)).errorClass = some .protocolInvariantViolation :=
  ⟨_, _, rfl, rfl, rfl, rfl, rfl⟩
theorem witness_CallerContractCases : CallerContractViolated (fun _ => 3) [.read 0x12 3]
    ∧ CallerContractViolated (fun _ => 3) [.read 0x07 2]
    ∧ (calling [.read 0x12 3] (.bytes [])).stage = .operational ∧ (calling [.read 0x12 3] (.bytes [])).phase = .idle
    ∧ (calling [.read 0x12 3] (.bytes [])).calls = [[.read 0x12 3]] :=
  ⟨.inr ⟨_, List.mem_singleton.2 rfl, by decide⟩, .inl ⟨0x07, 2, List.mem_singleton.2 rfl, by decide⟩, rfl, rfl, rfl⟩

end Sys2Proof.Machine.Tests
end

section
/-! The family 00_scope.md: the fixed constants (R5) and the set of valid register addresses (R6). -/

namespace Sys2Proof.Config

/-- R6: membership in `VALID_ADDR` as two ranges of numbers, for proofs that would otherwise walk the enumeration.
A check of each of the 64 addresses that 6 bits can hold. -/
theorem mem_validAddr_iff : ∀ a : Addr, a ∈ validAddr ↔ a.toNat ≤ 0x11 ∨ a = 0x3E ∨ a = 0x3F := by
  decide

@[simp] theorem length_validAddr : validAddr.length = 20 := rfl

/-- R5, C1: the shift expression that defines `FILLER` is the byte of all ones. -/
theorem filler_eq_allOnes : filler = 0xFF := rfl

end Sys2Proof.Config

namespace Sys2Proof.Machine
open Config

/-- Settles O1: the scalar constants by their definitions, `VALID_ADDR` by its length and its membership. -/
theorem constantsOfTheCore : Obligations.ConstantsOfTheCore :=
  ⟨rfl, rfl, rfl, filler_eq_allOnes, rfl, rfl, length_validAddr, mem_validAddr_iff⟩

end Sys2Proof.Machine
end

section
/-! The steps of one call, forwards: what each step answers where its registers hold values, the two walks to their
ends, and a whole answered call (R142 to R149, R153). -/

namespace Sys2Proof.Machine

/-! ### One step in each phase -/

/-- R36: in IDLE the step is the host's turn. -/
theorem step_idle {s : State} (hst : s.stage = .operational) (hp : s.phase = .idle) :
    step s = .next (serveHost s) := by
  rw [step_coordinate (fetched_eq_none_of_not_walks (by rw [hp]; rfl))]
  simp [coordinate, hst, hp]

/-- R143: the flatten step at operation `n`. -/
theorem step_flatten {s : State} {ops : List Instr} {n : Nat} {i : Instr} {tx : List Byte} {len : List Nat}
    (hst : s.stage = .operational) (hp : s.phase = .flatten) (ho : s.ops = some ops) (hn : s.idx = some n)
    (hi : ops[n]? = some i) (htx : s.tx = some tx) (hl : s.len = some len) :
    step s = .next (s.flattened n tx len (encode i)) := by
  rw [step_fetched (fetched_eq_some.2 ⟨hst, by rw [hp]; rfl, ops, n, ho, hn, hi⟩), exec_eq_next]
  exact .inl ⟨hp, flattenStep_eq_next.2 ⟨n, tx, len, hn, htx, hl, rfl⟩⟩

/-- R144: the issue, once the walk has reached its end. -/
theorem step_issue {s : State} {ops : List Instr} {tx : List Byte} (hst : s.stage = .operational)
    (hp : s.phase = .flatten) (ho : s.ops = some ops) (hn : s.idx = some ops.length) (htx : s.tx = some tx) :
    step s = .next (s.issued tx) := by
  rw [step_coordinate (fetched_eq_none_of_end ho hn)]
  simp only [coordinate, hst, hp]
  exact atEnd_eq_next.2 ⟨ops, ho, hn, issue_eq_next.2 ⟨tx, htx, rfl⟩⟩

/-- R145: in EXCHANGE the transport's next answer is taken. -/
theorem step_answer {s t : State} {a : Answer} {rest : List Answer} (hst : s.stage = .operational)
    (hp : s.phase = .exchange) (ha : s.answers = a :: rest) (ht : takeAnswer a (s.withAnswers rest) = .next t) :
    step s = .next t := by
  rw [step_coordinate (fetched_eq_none_of_not_walks (by rw [hp]; rfl))]
  simpa [coordinate, serveTransport, hst, hp, ha] using ht

/-- R147: the demultiplex step at operation `n`. -/
theorem step_demux {s : State} {ops : List Instr} {n : Nat} {i : Instr} {len : List Nat} {rx : List Byte}
    {cur l : Nat} {res : List Result} {r : Result} (hst : s.stage = .operational) (hp : s.phase = .demux)
    (ho : s.ops = some ops) (hn : s.idx = some n) (hi : ops[n]? = some i) (hl : s.len = some len)
    (hrx : s.rx = some rx) (hc : s.cur = some cur) (hr : s.res = some res) (hln : len[n]? = some l)
    (hpa : parse i ((rx.drop cur).take l) = some r) : step s = .next (s.demultiplexed n cur l res r) := by
  rw [step_fetched (fetched_eq_some.2 ⟨hst, by rw [hp]; rfl, ops, n, ho, hn, hi⟩), exec_eq_next]
  rw [← slice_eq] at hpa
  exact .inr ⟨hp, demuxStep_eq_next.2 ⟨n, len, rx, cur, res, l, r, hn, hl, hrx, hc, hr, hln, hpa, rfl⟩⟩

/-- R149: the return, once the walk has reached its end. -/
theorem step_return {s : State} {ops : List Instr} {res : List Result} (hst : s.stage = .operational)
    (hp : s.phase = .demux) (ho : s.ops = some ops) (hn : s.idx = some ops.length) (hr : s.res = some res) :
    step s = .next (s.emit (.results res)).released := by
  rw [step_coordinate (fetched_eq_none_of_end ho hn)]
  simp only [coordinate, hst, hp]
  exact atEnd_eq_next.2 ⟨ops, ho, hn, finish_eq_next.2 ⟨res, hr, rfl⟩⟩

/-! ### The two walks to their ends (R27) -/

/-- Flattening what is still to do of the list: one step per operation (R143, R153). -/
theorem steps_flatten_walk {s : State} {done todo : List Instr} {tx : List Byte} {len : List Nat}
    (hst : s.stage = .operational) (hp : s.phase = .flatten) (ho : s.ops = some (done ++ todo))
    (hn : s.idx = some done.length) (htx : s.tx = some tx) (hl : s.len = some len) :
    steps todo.length s = .next
      { s with
        idx := some (done ++ todo).length, tx := some (tx ++ flattenAll todo),
        len := some (len ++ todo.map transmitLength) } := by
  induction todo generalizing s done tx len with
  | nil => simp [steps, ← hn, ← htx, ← hl]
  | cons i is ih =>
    have hstep := step_flatten hst hp ho hn (i := i) (by simp) htx hl
    have hwalk := ih (s := s.flattened done.length tx len (encode i)) (done := done ++ [i]) hst hp
      (by simp [ho]) (by simp) rfl rfl
    rw [List.length_cons, steps_succ hstep, hwalk]
    simp [State.flattened]

/-- Demultiplexing what is still to do of the list: one step per operation, with the results `demux` gives on the bytes
from the cursor on (R147, R148, R153). -/
theorem steps_demux_walk {s : State} {done todo : List Instr} {rx : List Byte} {cur : Nat} {res rs : List Result}
    (hst : s.stage = .operational) (hp : s.phase = .demux) (ho : s.ops = some (done ++ todo))
    (hn : s.idx = some done.length) (hl : s.len = some ((done ++ todo).map transmitLength)) (hrx : s.rx = some rx)
    (hc : s.cur = some cur) (hr : s.res = some res) (hd : demuxAll todo (rx.drop cur) = some rs) :
    steps todo.length s = .next
      { s with
        idx := some (done ++ todo).length, cur := some (cur + (todo.map transmitLength).sum),
        res := some (res ++ rs) } := by
  induction todo generalizing s done cur res rs with
  | nil =>
    obtain rfl : rs = [] := by simpa [demuxAll, eq_comm] using hd
    simp [steps, ← hn, ← hc, ← hr]
  | cons i is ih =>
    simp only [demuxAll] at hd
    split at hd
    · next r rs' hpa hrest =>
      cases hd
      have hstep := step_demux hst hp ho hn (i := i) (by simp) hl hrx hc hr (by simp) hpa
      have hwalk := ih (s := s.demultiplexed done.length cur (transmitLength i) res r) (done := done ++ [i]) hst hp
        (by simp [ho]) (by simp) (by simp [hl]) hrx rfl rfl (by simpa [List.drop_drop] using hrest)
      rw [List.length_cons, steps_succ hstep, hwalk]
      simp [State.demultiplexed, Nat.add_assoc]
    · cases hd

/-! ### A whole call -/

/-- From acceptance to the exchange: accept, one flatten step per operation, issue (R142 to R144). -/
theorem steps_to_exchange {s : State} {ops : List Instr} {rest : List (List Instr)} (hst : ConfigOk s)
    (hp : s.phase = .idle) (hc : s.calls = ops :: rest) (hwf : transactionWellFormed s.cap ops = true) :
    steps (ops.length + 2) s = .next
      { s with
        calls := rest, phase := .exchange, ops := some ops, idx := some ops.length, tx := some (flattenAll ops),
        len := some (ops.map transmitLength), res := some [],
        history := s.history ++ [.transfer (flattenAll ops)] } := by
  have haccept : step s = .next ((s.withCalls rest).accepted ops) := by
    rw [step_idle hst hp]
    simp [serveHost, hc, presented_of_wellFormed (s := s.withCalls rest) hwf]
  have hwalk := steps_flatten_walk (s := (s.withCalls rest).accepted ops) (done := []) hst rfl rfl rfl rfl rfl
  rw [steps_succ haccept, steps_add hwalk]
  exact steps_succ (step_issue hst rfl rfl rfl rfl)

/-- The steps from the answer to the end of the call: the answer alone where the call is aborted; the answer, one
demultiplex step per operation and the return where the response has the right length (R146, R153). -/
def answerSteps (ops : List Instr) : Answer → Nat
  | .fail _ => 1
  | .bytes rx => if rx.length = (flattenAll ops).length then ops.length + 2 else 1

/-- Every answer fixes an outcome (R150). -/
theorem exists_outcomeOf (ops : List Instr) (a : Answer) : ∃ e, outcomeOf ops a = some e := by
  cases a with
  | fail e => exact ⟨_, rfl⟩
  | bytes rx =>
    by_cases hlen : rx.length = (flattenAll ops).length
    · obtain ⟨res, hres⟩ := demuxAll_total hlen.ge
      exact ⟨.results res, by simp [outcomeOf, hlen, hres]⟩
    · exact ⟨_, if_neg hlen⟩

/-- From the answer to the end of the call: the one message the answer fixes goes out and every register is released
(R146, R149, R150, R183). -/
theorem steps_to_outcome {s : State} {ops : List Instr} {a : Answer} {more : List Answer} {e : Event}
    (hst : s.stage = .operational) (hp : s.phase = .exchange) (ho : s.ops = some ops)
    (htx : s.tx = some (flattenAll ops)) (hl : s.len = some (ops.map transmitLength)) (hr : s.res = some [])
    (ha : s.answers = a :: more) (he : outcomeOf ops a = some e) :
    steps (answerSteps ops a) s = .next ((s.withAnswers more).emit e).released := by
  cases a with
  | fail f =>
    cases he
    exact steps_succ (step_answer hst hp ha (takeAnswer_eq_next.2 (.inl ⟨f, rfl, rfl⟩)))
  | bytes rx =>
    by_cases hlen : rx.length = (flattenAll ops).length
    · obtain ⟨res, hres, rfl⟩ : ∃ res, demuxAll ops rx = some res ∧ Event.results res = e := by
        simpa [outcomeOf, hlen] using he
      have hstep := step_answer hst hp ha (takeAnswer_eq_next.2 (.inr (.inl ⟨rx, _, rfl, htx, hlen, rfl⟩)))
      have hwalk := steps_demux_walk (s := (s.withAnswers more).answered rx) (done := []) hst rfl ho rfl hl rfl rfl hr
        hres
      rw [answerSteps, if_pos hlen, steps_succ hstep, steps_add hwalk]
      exact steps_succ (step_return hst rfl ho rfl rfl)
    · obtain rfl : .abort (.protocolInvariantViolation (flattenAll ops).length rx.length) = e := by
        simpa [outcomeOf, hlen] using he
      rw [answerSteps, if_neg hlen]
      exact steps_succ (step_answer hst hp ha (takeAnswer_eq_next.2 (.inr (.inr ⟨rx, _, rfl, htx, hlen, rfl⟩))))

/-- A whole answered call of a well-formed list adds the request and the outcome to the history and leaves every
register as it was, with no value (R150, R153). -/
theorem steps_answered_call {s : State} {ops : List Instr} {rest : List (List Instr)} {a : Answer}
    {more : List Answer} {e : Event} (hst : ConfigOk s) (hidle : IdleAtStart s) (hc : s.calls = ops :: rest)
    (ha : s.answers = a :: more) (hwf : transactionWellFormed s.cap ops = true) (he : outcomeOf ops a = some e) :
    steps (ops.length + 2 + answerSteps ops a) s = .next
      { s with
        calls := rest, answers := more, history := s.history ++ [.transfer (flattenAll ops), e] } := by
  obtain ⟨hp, hops, hidx, htx, hlen, hrx, hcur, hres⟩ := hidle
  rw [steps_add (steps_to_exchange hst hp hc hwf)]
  refine Eq.trans (steps_to_outcome hst rfl rfl rfl rfl rfl ha he) ?_
  simp [State.released, State.emit, State.withAnswers, hp, hops, hidx, htx, hlen, hrx, hcur, hres]

/-- A call of an ill-formed list is refused in one step, which changes no register (R92). -/
theorem step_refused_call {s : State} {ops : List Instr} {rest : List (List Instr)} (hst : ConfigOk s)
    (hp : s.phase = .idle) (hc : s.calls = ops :: rest) (hwf : transactionWellFormed s.cap ops = false) :
    step s = .next ((s.withCalls rest).emit (.refused (refusalReasons s.cap ops))) := by
  rw [step_idle hst hp]
  simp [serveHost, hc, presented_of_illFormed (s := s.withCalls rest) hwf]

end Sys2Proof.Machine
end

section
/-! The family 10_state.md: no state survives a call (R21), and the transmit buffer (R24). -/

namespace Sys2Proof.Machine

/-! ### No state survives a call (R21) -/

/-- Between calls, with this list to be presented next and this answer to be given: all that R21 lets a call depend
on. -/
def AwaitsCall (cap : Capacity) (ops : List Instr) (a : Answer) (s : State) : Prop :=
  ConfigOk s ∧ IdleAtStart s ∧ s.cap = cap ∧ (∃ rest, s.calls = ops :: rest) ∧ ∃ more, s.answers = a :: more

/-- How long a call takes and what it adds to the history are the same from every state that awaits it. -/
theorem call_same_from_every_idle_state (cap : Capacity) (ops : List Instr) (a : Answer) :
    ∃ (n : Nat) (events : List Event), 0 < n ∧ events ≠ [] ∧ ∀ s, AwaitsCall cap ops a s →
      ∃ t, steps n s = .next t ∧ t.history = s.history ++ events ∧ IdleAtStart t := by
  cases hwf : transactionWellFormed cap ops with
  | true =>
    obtain ⟨e, he⟩ := exists_outcomeOf ops a
    refine ⟨ops.length + 2 + answerSteps ops a, [.transfer (flattenAll ops), e], by omega, by simp, ?_⟩
    rintro s ⟨hst, hidle, rfl, ⟨rest, hc⟩, more, ha⟩
    exact ⟨_, steps_answered_call hst hidle hc ha hwf he, rfl, hidle⟩
  | false =>
    refine ⟨1, [.refused (refusalReasons cap ops)], by omega, by simp, ?_⟩
    rintro s ⟨hst, hidle, rfl, ⟨rest, hc⟩, -⟩
    exact ⟨_, steps_succ (step_refused_call hst hidle.1 hc hwf), rfl, hidle⟩

/-- Settles O40: both states await the same call, so its length and its events are those of
`call_same_from_every_idle_state`. -/
theorem callsAreStateless : Obligations.CallsAreStateless := by
  intro s₁ s₂ ops rest₁ rest₂ a more₁ more₂ hst₁ hst₂ hidle₁ hidle₂ hcap hc₁ hc₂ ha₁ ha₂
  obtain ⟨n, events, hn, hev, hcall⟩ := call_same_from_every_idle_state s₁.cap ops a
  obtain ⟨t₁, hrun₁, hhist₁, hend₁⟩ := hcall s₁ ⟨hst₁, hidle₁, rfl, ⟨rest₁, hc₁⟩, more₁, ha₁⟩
  obtain ⟨t₂, hrun₂, hhist₂, hend₂⟩ := hcall s₂ ⟨hst₂, hidle₂, hcap.symm, ⟨rest₂, hc₂⟩, more₂, ha₂⟩
  exact ⟨n, events, t₁, t₂, hn, hev, hrun₁, hrun₂, hhist₁, hhist₂, hend₁, hend₂⟩

/-! ### The transmit buffer (R24) -/

theorem Invariant.exchangeInv {s : State} (h : Invariant s) (hp : s.phase = .exchange) : ExchangeInv s := by
  obtain ⟨-, -, hregs⟩ := h
  rwa [hp] at hregs

theorem Invariant.demuxInv {s : State} (h : Invariant s) (hp : s.phase = .demux) : DemuxInv s := by
  obtain ⟨-, -, hregs⟩ := h
  rwa [hp] at hregs

/-- After flattening, `TX` is the concatenation of the payloads of `OPS` (R31). -/
theorem Invariant.tx_eq_flattenAll {s : State} (h : Invariant s) (hp : s.phase = .exchange ∨ s.phase = .demux) :
    ∃ ops, s.ops = some ops ∧ s.tx = some (flattenAll ops) := by
  rcases hp with hp | hp
  · obtain ⟨ops, -, ho, -, htx, -⟩ := h.exchangeInv hp
    exact ⟨ops, ho, htx⟩
  · obtain ⟨ops, -, -, -, -, -, ho, -, htx, -⟩ := h.demuxInv hp
    exact ⟨ops, ho, htx⟩

/-- Outside IDLE and FLATTEN no step writes `TX`, except to release it at the end of the call (R24, R149, R183). -/
theorem step_keeps_tx {s t : State} (hp : s.phase = .exchange ∨ s.phase = .demux) (h : step s = .next t) :
    t.tx = s.tx ∨ (t.phase = .idle ∧ t.tx = none) := by
  rcases step_cases h with ⟨limits, bus, -, rfl⟩ | ⟨-, hidle, -⟩ | ⟨-, hflat, -⟩ | ⟨-, hflat, -⟩ | ⟨-, -, -, rfl⟩ |
    ⟨-, -, e, rest, -, rfl⟩ | ⟨-, -, rx, rest, tx, -, -, -, rfl⟩ | ⟨-, -, rx, rest, tx, -, -, -, rfl⟩ |
    ⟨-, -, ops, n, i, len, rx, cur, res, l, r, -, -, -, -, -, -, -, -, -, rfl⟩ |
    ⟨-, -, ops, res, -, -, -, rfl⟩
  · obtain ⟨g, events, heq⟩ := construct_eq limits bus s
    exact .inl (by rw [heq])
  · simp [hidle] at hp
  · simp [hflat] at hp
  · simp [hflat] at hp
  · exact .inl rfl
  · exact .inr ⟨rfl, rfl⟩
  · exact .inl rfl
  · exact .inr ⟨rfl, rfl⟩
  · exact .inl rfl
  · exact .inr ⟨rfl, rfl⟩

/-- Settles O43: the invariant gives the buffer, and `step_keeps_tx` that no step changes it. -/
theorem transmitBufferIsTheConcatenation : Obligations.TransmitBufferIsTheConcatenation := by
  intro s hinv hp
  obtain ⟨ops, ho, htx⟩ := hinv.tx_eq_flattenAll hp
  exact ⟨ops, ho, htx, fun t => step_keeps_tx hp⟩

end Sys2Proof.Machine
end

section
/-! The family 20_memory.md: the byte order of a Read's result (R57). -/

namespace Sys2Proof.Machine

/-- R57: the fold as a positional sum in base 256. By `fold_cons` the first byte is its most significant digit. -/
theorem fold_eq_sum (d : List Byte) :
    fold d = ∑ j : Fin d.length, d[j].toNat * 256 ^ (d.length - 1 - j.val) := by
  induction d with
  | nil => rfl
  | cons b s ih =>
    have hexp (j : Fin s.length) : s.length - 1 - j.val = s.length - (j.val + 1) := by omega
    rw [fold_cons, ih]
    simp [Fin.sum_univ_succ, hexp]

/-- Settles O13: a Read folds the data bytes (`parseRead_cons`), and the fold is the positional sum. -/
theorem readResultIsBigEndian : Obligations.ReadResultIsBigEndian := by
  intro addr c d
  rw [← fold_eq_sum]
  exact parseRead_cons c d

end Sys2Proof.Machine
end

section
/-! The family 30_encoding.md: the control byte (R82) and the payloads of the two operations (R83, R84). -/

namespace Sys2Proof

/-! ### The control byte (R82, R110) -/

/-- R82 over numbers: neither shift loses a bit, since 6 bits moved up by 2 still fit in a byte. -/
theorem toNat_controlByte_eq_or (a : Addr) (f : Flag) : (controlByte a f).toNat = (a.toNat <<< 2) ||| f.toNat := by
  have ha : a.toNat % 256 = a.toNat := by omega
  have hshift : a.toNat <<< 2 % 256 = a.toNat <<< 2 := by rw [Nat.shiftLeft_eq]; omega
  have hf : f.toNat < 256 := by omega
  simp [controlByte, Config.addressOffset, Config.flagOffset, ha, hshift, Nat.mod_eq_of_lt hf]

/-- R110: the two terms never overlap, so the OR is a sum. -/
theorem toNat_controlByte (a : Addr) (f : Flag) : (controlByte a f).toNat = 4 * a.toNat + f.toNat := by
  have hf : f.toNat < 2 ^ 2 := by omega
  rw [toNat_controlByte_eq_or, ← Nat.shiftLeft_add_eq_or_of_lt hf, Nat.shiftLeft_eq, Nat.mul_comm]

/-- The control byte as a byte literal of the sum, the form in which the payloads are stated. -/
theorem controlByte_eq_ofNat (a : Addr) (f : Flag) : controlByte a f = BitVec.ofNat 8 (4 * a.toNat + f.toNat) := by
  rw [← toNat_controlByte, BitVec.ofNat_toNat, BitVec.setWidth_eq]

/-- R86: bits 7:2, the sum divided by 4. -/
@[simp] theorem addrField_controlByte (a : Addr) (f : Flag) : addrField (controlByte a f) = a := by
  apply BitVec.eq_of_toNat_eq
  simp only [addrField, BitVec.extractLsb'_toNat, toNat_controlByte, Nat.shiftRight_eq_div_pow]
  omega

/-- R81: bit 1, covered by no field. -/
@[simp] theorem reservedField_controlByte (a : Addr) (f : Flag) : reservedField (controlByte a f) = 0 := by
  apply BitVec.eq_of_toNat_eq
  simp only [reservedField, BitVec.extractLsb'_toNat, toNat_controlByte, Nat.shiftRight_eq_div_pow,
    BitVec.ofNat_eq_ofNat, BitVec.toNat_ofNat]
  omega

/-- R87: bit 0, the parity of the sum. -/
@[simp] theorem flagField_controlByte (a : Addr) (f : Flag) : flagField (controlByte a f) = f := by
  apply BitVec.eq_of_toNat_eq
  simp only [flagField, BitVec.extractLsb'_toNat, toNat_controlByte, Nat.shiftRight_eq_div_pow]
  omega

/-- The largest control byte is that of a Read at 0x3F. -/
theorem toNat_controlByte_le (a : Addr) (f : Flag) : (controlByte a f).toNat ≤ 0xFD := by
  rw [toNat_controlByte]
  omega

/-! ### The payloads (R83, R84) -/

/-- R83, R112: a control byte with the flag 1, then the fillers. -/
theorem encode_read (addr : Addr) (n : Nat) :
    encode (.read addr n) = BitVec.ofNat 8 (4 * addr.toNat + 1) :: List.replicate n 0xFF :=
  congrArg₂ List.cons (controlByte_eq_ofNat addr Config.flagRead)
    (congrArg (List.replicate n) Config.filler_eq_allOnes)

/-- R84, R115: a control byte with the flag 0, then the data. -/
theorem encode_write (addr : Addr) (data : List Byte) :
    encode (.write addr data) = BitVec.ofNat 8 (4 * addr.toNat) :: data :=
  congrArg (· :: data) (controlByte_eq_ofNat addr Config.flagWrite)

end Sys2Proof

namespace Sys2Proof.Machine

/-- Settles O2: the OR and the sum over numbers, each field read back, and the two corner cases and the example by
evaluation. -/
theorem controlByteFormula : Obligations.ControlByteFormula :=
  ⟨fun a f => ⟨toNat_controlByte_eq_or a f, toNat_controlByte a f, addrField_controlByte a f,
    reservedField_controlByte a f, flagField_controlByte a f, toNat_controlByte_le a f⟩, rfl, rfl, rfl⟩

/-- Settles O3: the bytes by `encode_read`, their number by `transmitLength_eq`. -/
theorem readPayloadBytes : Obligations.ReadPayloadBytes :=
  ⟨fun addr n => ⟨encode_read addr n, transmitLength_eq (.read addr n)⟩, rfl⟩

/-- Settles O4: the bytes by `encode_write`, their number by `transmitLength_eq`. -/
theorem writePayloadBytes : Obligations.WritePayloadBytes :=
  ⟨fun addr data => ⟨encode_write addr data, transmitLength_eq (.write addr data)⟩, rfl⟩

end Sys2Proof.Machine
end

section
/-! The family 40_operation.md: the parse of each variant (R113, R116) and the meanings of READ and WRITE (R111,
R114). -/

namespace Sys2Proof.Machine

/-! ### The parse (R113, R116) -/

/-- R113: one step of `fold_cons` for each of the two data bytes. -/
theorem parseRead_example : parseRead 2 [0xFF, 0x01, 0x02] = some (.value 258) := by
  simpa [fold_cons] using parseRead_cons 0xFF [0x01, 0x02]

/-- R111, R113: on the response, the parse of a Read at offset `o` folds `RX[o+1 : o+1+N]`. -/
theorem parseRead_response {n o : Nat} {rx : List Byte} (h : o + (1 + n) ≤ rx.length) :
    parseRead n ((rx.drop o).take (1 + n)) = some (.value (fold ((rx.drop (o + 1)).take n))) := by
  have hlen : ((rx.drop (o + 1)).take n).length = n := by rw [List.length_take, List.length_drop]; omega
  have hparse := parseRead_cons rx[o] ((rx.drop (o + 1)).take n)
  rw [hlen] at hparse
  rw [List.drop_eq_getElem_cons (by omega), Nat.add_comm 1 n, List.take_succ_cons, hparse]

/-- Settles O12: the two shapes of slice by `parseRead_cons` and `parseRead_eq_none`. -/
theorem readParseFoldsTrailingBytes : Obligations.ReadParseFoldsTrailingBytes :=
  ⟨fun _ c data => parseRead_cons c data, fun _ _ _ => parseRead_eq_none.2, fun _ => parseRead_example⟩

/-- Settles O15: the parse of a Write is constant, and the two constructors of a result are distinct. -/
theorem writeParseIsAbsent : Obligations.WriteParseIsAbsent :=
  ⟨fun _ _ _ => rfl, fun _ => Result.noConfusion⟩

/-! ### One operation, in each of the two walks (R111, R114) -/

/-- R143: in FLATTEN an operation appends its payload and the payload's length. -/
theorem exec_flatten {i : Instr} {s : State} {n : Nat} {tx : List Byte} {len : List Nat} (hp : s.phase = .flatten)
    (hn : s.idx = some n) (htx : s.tx = some tx) (hl : s.len = some len) :
    exec i s = .next (s.flattened n tx len (encode i)) :=
  exec_eq_next.2 (.inl ⟨hp, flattenStep_eq_next.2 ⟨n, tx, len, hn, htx, hl, rfl⟩⟩)

/-- R147: in DEMUX an operation appends the result of its slice. -/
theorem exec_demux {i : Instr} {s : State} {n l cur : Nat} {len : List Nat} {rx : List Byte} {res : List Result}
    {r : Result} (hp : s.phase = .demux) (hn : s.idx = some n) (hl : s.len = some len) (hrx : s.rx = some rx)
    (hc : s.cur = some cur) (hr : s.res = some res) (hln : len[n]? = some l)
    (hpa : parse i ((rx.drop cur).take l) = some r) : exec i s = .next (s.demultiplexed n cur l res r) := by
  rw [← slice_eq] at hpa
  exact exec_eq_next.2 (.inr ⟨hp, demuxStep_eq_next.2 ⟨n, len, rx, cur, res, l, r, hn, hl, hrx, hc, hr, hln, hpa, rfl⟩⟩)

/-- Settles O16: the payload by `encode_read` in FLATTEN, the result by `parseRead_response` in DEMUX. -/
theorem readMeaning : Obligations.ReadMeaning := by
  intro addr n s i tx len hi htx hl
  constructor
  · intro hp
    rw [exec_flatten hp hi htx hl, State.flattened, encode_length, transmitLength_eq, encode_read]
    rfl
  · intro rx res hp hrx hr hc hln hle
    exact exec_demux hp hi hl hrx hc hr hln (parseRead_response hle)

/-- Settles O17: the payload by `encode_write` in FLATTEN; in DEMUX every slice is parsed as absent. -/
theorem writeMeaning : Obligations.WriteMeaning := by
  intro addr data s i tx len hi htx hl
  constructor
  · intro hp
    rw [exec_flatten hp hi htx hl, State.flattened, encode_length, transmitLength_eq, encode_write]
    rfl
  · intro rx res hp hrx hr hc hln
    exact exec_demux hp hi hl hrx hc hr hln rfl

end Sys2Proof.Machine
end

section
/-! The family 41_coordinator.md: the steps of OPERATE (R142 to R149), their order (R141), the slices of the response
(R148) and the outcome (R151). -/

namespace Sys2Proof.Machine

/-! ### What the invariant gives a running call (R31) -/

/-- Only an operational block leaves IDLE (R182). -/
theorem Invariant.operational {s : State} (h : Invariant s) (hp : s.phase ≠ .idle) : s.stage = .operational := by
  obtain ⟨-, hidle, -⟩ := h
  by_contra hst
  exact hp (hidle hst)

/-- In FLATTEN, `TX` and `LEN` hold values (R24, R25). -/
theorem Invariant.flatten_registers {s : State} (h : Invariant s) (hp : s.phase = .flatten) :
    ∃ tx len, s.tx = some tx ∧ s.len = some len := by
  obtain ⟨-, -, hregs⟩ := h
  rw [hp] at hregs
  obtain ⟨ops, n, -, -, -, -, htx, hl, -⟩ := hregs
  exact ⟨_, _, htx, hl⟩

/-- The registers of DEMUX for the list in `OPS` and the position in `IDX` (R28, R29, R31). -/
theorem Invariant.demux_registers {s : State} {ops : List Instr} {n : Nat} (h : Invariant s) (hp : s.phase = .demux)
    (ho : s.ops = some ops) (hn : s.idx = some n) :
    ∃ rx res, s.len = some (ops.map transmitLength) ∧ s.rx = some rx ∧ rx.length = (flattenAll ops).length
      ∧ s.cur = some ((ops.take n).map transmitLength).sum ∧ s.res = some res
      ∧ demuxAll (ops.take n) rx = some res := by
  obtain ⟨ops', n', rx, res, -, -, ho', hn', -, hl, hrx, hlen, hc, hr, hd⟩ := h.demuxInv hp
  obtain rfl : ops = ops' := by simpa [ho] using ho'
  obtain rfl : n = n' := by simpa [hn] using hn'
  exact ⟨rx, res, hl, hrx, hlen, hc, hr, hd⟩

/-! ### One step of OPERATE at a time (R142 to R149) -/

/-- R142: a well-formed list that is presented is accepted. -/
theorem step_accept {s : State} {ops : List Instr} {rest : List (List Instr)} (hst : s.stage = .operational)
    (hp : s.phase = .idle) (hc : s.calls = ops :: rest) (hwf : transactionWellFormed s.cap ops = true) :
    step s = .next ((s.withCalls rest).accepted ops) := by
  rw [step_idle hst hp]
  simp [serveHost, hc, presented_of_wellFormed (s := s.withCalls rest) hwf]

/-- Settles O24: `step_accept`, with the accepted state written out. -/
theorem acceptStartsFlattening : Obligations.AcceptStartsFlattening :=
  fun _ _ _ => step_accept

/-- Settles O26: the invariant gives `TX` and `LEN` their values, and `step_flatten` the step. -/
theorem flattenStepAppendsPayload : Obligations.FlattenStepAppendsPayload := by
  intro s ops n i hinv hp ho hn hi
  obtain ⟨tx, len, htx, hl⟩ := hinv.flatten_registers hp
  have hst := hinv.operational (by simp [hp])
  exact ⟨tx, len, htx, hl, step_flatten hst hp ho hn hi htx hl⟩

/-- Settles O29: an answer of bytes by `takeAnswer_eq_next`, once for equal and once for unequal lengths. -/
theorem lengthCheckBeforeParsing : Obligations.LengthCheckBeforeParsing := by
  intro s tx rx rest hst hp htx ha
  split
  · next hlen => exact step_answer hst hp ha (takeAnswer_eq_next.2 (.inr (.inl ⟨rx, tx, rfl, htx, hlen, rfl⟩)))
  · next hlen => exact step_answer hst hp ha (takeAnswer_eq_next.2 (.inr (.inr ⟨rx, tx, rfl, htx, hlen, rfl⟩)))

/-- Settles O31: under the invariant the slice at the cursor has the operation's length, so it has a parse. -/
theorem demultiplexStepParsesOneSlice : Obligations.DemultiplexStepParsesOneSlice := by
  intro s ops n i hinv hp ho hn hi
  obtain ⟨rx, res, hl, hrx, hlen, hc, hr, -⟩ := hinv.demux_registers hp ho hn
  obtain ⟨r, hpa, -⟩ := parse_of_length (response_slice_length hi hlen)
  have hst := hinv.operational (by simp [hp])
  have hln := lengths_getElem? hi
  exact ⟨rx, _, _, _, res, r, hrx, hl, hc, hr, hln, hpa, step_demux hst hp ho hn hi hl hrx hc hr hln hpa⟩

/-- Settles O32: at the end of the walk the operations handled so far are the whole list, whose lengths sum to that of
the response. -/
theorem returnSendsResults : Obligations.ReturnSendsResults := by
  intro s ops hinv hp ho hn
  obtain ⟨rx, res, -, hrx, hlen, hc, hr, hd⟩ := hinv.demux_registers hp ho hn
  rw [List.take_length] at hc hd
  rw [← flattenAll_length, ← hlen] at hc
  have hst := hinv.operational (by simp [hp])
  exact ⟨rx, res, hrx, hc, hr, demuxAll_length hd, step_return hst hp ho hn hr⟩

/-! ### The order of the steps (R141) -/

/-- R142, R92: the host's turn ends in IDLE or starts flattening. -/
theorem serveHost_phase {s : State} (hp : s.phase = .idle) :
    (serveHost s).phase = .idle ∨ (serveHost s).phase = .flatten := by
  rcases serveHost_cases s with h | ⟨ops, rest, -, h⟩ | ⟨ops, rest, reasons, -, h⟩
  · exact .inl (by rw [h, hp])
  · exact .inr (by rw [h, State.accepted_phase])
  · exact .inl (by rw [h, State.emit_phase, State.withCalls_phase, hp])

/-- R39: construction leaves `PHASE` as it is. -/
@[simp] theorem construct_phase (limits : BusLimits) (bus : BusConfig) (s : State) :
    (construct limits bus s).phase = s.phase := by
  obtain ⟨g, events, h⟩ := construct_eq limits bus s
  rw [h]

/-- Settles O42: the cases of a step, each of which belongs to one phase; a step at an operation and the end of a walk
exclude each other. -/
theorem stepsFollowTheAlgorithm : Obligations.StepsFollowTheAlgorithm := by
  intro s t hinv h
  rcases step_cases h with ⟨limits, bus, hst, rfl⟩ | ⟨-, hp, rfl⟩ |
    ⟨-, hp, ops, n, i, tx, len, ho, hn, hi, -, -, rfl⟩ | ⟨-, hp, ops, tx, ho, hn, -, rfl⟩ | ⟨-, hp, -, rfl⟩ |
    ⟨-, hp, e, rest, -, rfl⟩ | ⟨-, hp, rx, rest, tx, -, -, -, rfl⟩ | ⟨-, hp, rx, rest, tx, -, -, -, rfl⟩ |
    ⟨-, hp, ops, n, i, len, rx, cur, res, l, r, ho, hn, hi, -, -, -, -, -, -, rfl⟩ |
    ⟨-, hp, ops, res, ho, hn, -, rfl⟩
  · have hp : s.phase = .idle := by
      by_contra hrun
      simp [hinv.operational hrun] at hst
    simp [hp]
  · simpa [hp] using serveHost_phase hp
  · simp [hp, not_walkEnded_of_getElem? ho hn hi]
  · have hend : WalkEnded s := ⟨ops, ho, hn⟩
    simp [hp, hend]
  · simp [hp]
  · simp [hp, State.aborted]
  · simp [hp]
  · simp [hp, State.aborted]
  · simp [hp, not_walkEnded_of_getElem? ho hn hi]
  · have hend : WalkEnded s := ⟨ops, ho, hn⟩
    simp [hp, hend]

/-! ### The slices of the buffer and of the response (R148) -/

/-- The payload of operation `n` stands in `TX` at the sum of the lengths before it. -/
theorem flattenAll_slice {ops : List Instr} {n : Nat} {i : Instr} (h : ops[n]? = some i) :
    ((flattenAll ops).drop ((ops.take n).map transmitLength).sum).take (transmitLength i) = encode i := by
  have hops : ops = ops.take n ++ i :: ops.drop (n + 1) := by
    obtain ⟨hn, rfl⟩ := List.getElem?_eq_some_iff.1 h
    rw [← List.drop_eq_getElem_cons hn, List.take_append_drop]
  have htx : flattenAll ops = flattenAll (ops.take n) ++ (encode i ++ flattenAll (ops.drop (n + 1))) := by
    rw [← flattenAll_cons, ← flattenAll_append, ← hops]
  rw [htx, List.drop_left' (flattenAll_length _), take_encode_append]

/-- Consecutive slices from offset 0 on, put together, are the bytes before the last offset. -/
theorem flatten_consecutive_slices {offset : Nat → Nat} (h0 : offset 0 = 0) (hle : ∀ j, offset j ≤ offset (j + 1))
    (bytes : List Byte) (n : Nat) :
    ((List.range n).map fun j => slice bytes (offset j) (offset (j + 1))).flatten = bytes.take (offset n) := by
  induction n with
  | zero => simp [h0]
  | succ n ih =>
    have htake : bytes.take (offset n) = (bytes.take (offset (n + 1))).take (offset n) := by
      rw [List.take_take, min_eq_left (hle n)]
    rw [List.range_succ, List.map_append, List.flatten_append, ih, htake]
    simp [slice]

/-- The offset of an operation is not below that of the one before it. -/
theorem offset_le_succ (ops : List Instr) (j : Nat) :
    ((ops.take j).map transmitLength).sum ≤ ((ops.take (j + 1)).map transmitLength).sum := by
  simp [List.take_add_one]

/-- Settles O47: the two slices of an operation, and the consecutive slices up to the response's end. -/
theorem slicesMatchPayloads : Obligations.SlicesMatchPayloads := by
  intro ops rx hlen
  constructor
  · intro j i hi
    rw [slice_eq, slice_eq]
    exact ⟨flattenAll_slice hi, response_slice_length hi hlen⟩
  · rw [flatten_consecutive_slices rfl (offset_le_succ ops), List.take_length, ← flattenAll_length, ← hlen,
      List.take_length]

/-! ### The outcome (R150, R151) -/

/-- R150: results are returned exactly for a response of the buffer's length, and are those of `demux`. -/
theorem outcomeOf_eq_results {ops : List Instr} {rx : List Byte} {res : List Result} :
    outcomeOf ops (.bytes rx) = some (.results res) ↔
      rx.length = (flattenAll ops).length ∧ demuxAll ops rx = some res := by
  by_cases hlen : rx.length = (flattenAll ops).length <;> simp [outcomeOf, hlen]

/-- R151: each result has the type of its operation. -/
theorem demuxAll_typed {ops : List Instr} {rx : List Byte} {res : List Result} {j : Nat} {i : Instr}
    (hd : demuxAll ops rx = some res) (hlen : rx.length = (flattenAll ops).length) (hi : ops[j]? = some i) :
    ((∃ v, res[j]? = some (.value v)) ↔ ∃ a n, i = .read a n)
      ∧ (res[j]? = some .absent ↔ ∃ a d, i = .write a d) := by
  obtain ⟨r, hpa, htyped⟩ := parse_of_length (response_slice_length hi hlen)
  rw [(demuxAll_getElem? hd hi).1, hpa]
  simpa using htyped

/-- R151: a result depends on the bytes of its own slice only. -/
theorem demuxAll_slice_local {ops : List Instr} {rx rx' : List Byte} {res res' : List Result} {j : Nat} {i : Instr}
    (hd : demuxAll ops rx = some res) (hd' : demuxAll ops rx' = some res') (hi : ops[j]? = some i)
    (hslice : (rx.drop ((ops.take j).map transmitLength).sum).take (transmitLength i)
      = (rx'.drop ((ops.take j).map transmitLength).sum).take (transmitLength i)) : res[j]? = res'[j]? := by
  rw [(demuxAll_getElem? hd hi).1, (demuxAll_getElem? hd' hi).1, hslice]

/-- Settles O46: the outcome is that of `demuxAll` on a response of the right length, which has one typed result per
slice. -/
theorem outcomeProperties : Obligations.OutcomeProperties := by
  refine fun ops rx => ⟨flattenAll_length ops, fun hlen => ?_, fun hlen res h => hlen (outcomeOf_eq_results.1 h).1⟩
  obtain ⟨res, hd⟩ := demuxAll_total hlen.ge
  refine ⟨res, outcomeOf_eq_results.2 ⟨hlen, hd⟩, demuxAll_length hd, fun j i => demuxAll_typed hd hlen, ?_⟩
  intro rx' res' j i hi hout hslice
  obtain ⟨-, hd'⟩ := outcomeOf_eq_results.1 hout
  exact demuxAll_slice_local hd hd' hi hslice

end Sys2Proof.Machine
end

section
/-! The family 60_exceptions.md: the abort (R183). -/

namespace Sys2Proof.Machine

/-- R183: an abort leaves no working register a value. -/
theorem aborted_noValues (e : Abort) (s : State) : NoValues (s.aborted e) :=
  ⟨rfl, rfl, rfl, rfl, rfl, rfl, rfl⟩

/-- R146, R175: a call ends from EXCHANGE only by an abort, once the transport's answer is taken. -/
theorem eq_aborted_of_exchange_to_idle {s t : State} (hp : s.phase = .exchange) (h : step s = .next t)
    (ht : t.phase = .idle) : ∃ e rest, t = (s.withAnswers rest).aborted e := by
  rcases step_cases h with ⟨limits, bus, -, rfl⟩ | ⟨-, hidle, -⟩ | ⟨-, hflat, -⟩ | ⟨-, hflat, -⟩ | ⟨-, -, -, rfl⟩ |
    ⟨-, -, e, rest, -, rfl⟩ | ⟨-, -, rx, rest, tx, -, -, -, rfl⟩ | ⟨-, -, rx, rest, tx, -, -, -, rfl⟩ |
    ⟨-, hdemux, -⟩ | ⟨-, hdemux, -⟩
  · simp [hp] at ht
  · simp [hp] at hidle
  · simp [hp] at hflat
  · simp [hp] at hflat
  · simp [hp] at ht
  · exact ⟨_, rest, rfl⟩
  · simp at ht
  · exact ⟨_, rest, rfl⟩
  · simp [hp] at hdemux
  · simp [hp] at hdemux

/-- Settles O33: the state reached is an aborted one by `eq_aborted_of_exchange_to_idle`, and an abort's effect on each
field gives the statement. -/
theorem abortEntry : Obligations.AbortEntry := by
  intro s t hp h ht
  obtain ⟨e, rest, rfl⟩ := eq_aborted_of_exchange_to_idle hp h ht
  exact ⟨⟨e, rfl⟩, aborted_noValues e _, rfl, rfl, rfl⟩

end Sys2Proof.Machine
end

section
/-! The family other: the decoder against the encoder (R83, R84, R91 to R94). -/

namespace Sys2Proof
open Config

/-! ### The control byte, read and written (R91) -/

/-- R91: a control byte whose reserved bit is clear is that of its own two fields. -/
theorem controlByte_of_fields {c : Byte} (h : reservedField c = 0) : controlByte (addrField c) (flagField c) = c := by
  have hbit : c.toNat / 2 % 2 = 0 := by
    simpa [reservedField, Nat.shiftRight_eq_div_pow] using congrArg BitVec.toNat h
  apply BitVec.eq_of_toNat_eq
  rw [toNat_controlByte]
  simp only [addrField, flagField, BitVec.extractLsb'_toNat, Nat.shiftRight_eq_div_pow]
  omega

theorem flagField_eq_write_of_ne_read {c : Byte} (h : flagField c ≠ flagRead) : flagField c = flagWrite :=
  (BitVec.eq_zero_or_eq_one (flagField c)).resolve_right h

theorem Addr.valid_iff {a : Addr} : a.valid = true ↔ a ∈ validAddr := List.contains_iff_mem

/-! ### What the decoder answers (R93, R94) -/

/-- After the control byte of a Read the decoder takes one or more fillers and nothing else (R83, R92). -/
theorem decode_readControl {a : Addr} (ha : a.valid = true) (rest : List Byte) :
    decode (controlByte a flagRead :: rest) =
      if rest = [] then .error .zeroWidthRead
      else if ∀ b ∈ rest, b = filler then .ok (.read a rest.length)
      else .error .notFiller := by
  simp [decode, decodePayload, ha]

/-- After the control byte of a Write the decoder takes whatever bytes follow (R84). -/
theorem decode_writeControl {a : Addr} (ha : a.valid = true) (rest : List Byte) :
    decode (controlByte a flagWrite :: rest) = .ok (.write a rest) := by
  simp [decode, decodePayload, ha, flagRead, flagWrite]

/-- A Read's payload decodes to the Read, unless it reads nothing (R91, D6). -/
theorem decode_readPayload {a : Addr} {n : Nat} (ha : a.valid = true) (hn : 1 ≤ n) :
    decode (readPayload a n) = .ok (.read a n) := by
  have hne : List.replicate n filler ≠ [] := by simp; omega
  rw [readPayload, decode_readControl ha, if_neg hne, if_pos fun b => List.eq_of_mem_replicate,
    List.length_replicate]

theorem decode_reservedBit {c : Byte} (rest : List Byte) (h : reservedField c ≠ 0) :
    decode (c :: rest) = .error .reservedBit := if_pos h

theorem decode_reservedAddress {c : Byte} (rest : List Byte) (h : reservedField c = 0)
    (ha : (addrField c).valid = false) : decode (c :: rest) = .error (.reservedAddress (addrField c)) := by
  simp [decode, decodePayload, h, ha]

/-- What the decoder accepts is a Read's or a Write's payload at a valid address (R93). -/
theorem eq_payload_of_decode {bytes : List Byte} {i : Instr} (h : decode bytes = .ok i) :
    (∃ a n, Addr.valid a = true ∧ 1 ≤ n ∧ bytes = readPayload a n ∧ i = .read a n) ∨
    (∃ a data, Addr.valid a = true ∧ bytes = writePayload a data ∧ i = .write a data) := by
  cases bytes with
  | nil => cases h
  | cons c rest =>
    by_cases hres : reservedField c = 0
    swap
    · rw [decode_reservedBit rest hres] at h; cases h
    cases ha : (addrField c).valid with
    | false => rw [decode_reservedAddress rest hres ha] at h; cases h
    | true =>
      rw [← controlByte_of_fields hres] at h ⊢
      by_cases hf : flagField c = flagRead
      · rw [hf, decode_readControl ha] at h
        split at h
        · cases h
        · next hne =>
          split at h
          · next hall =>
            cases h
            refine .inl ⟨addrField c, rest.length, ha, List.length_pos_iff.2 hne, ?_, rfl⟩
            rw [readPayload, ← List.eq_replicate_of_mem hall, hf]
          · cases h
      · rw [flagField_eq_write_of_ne_read hf, decode_writeControl ha] at h
        cases h
        exact .inr ⟨addrField c, rest, ha, by rw [writePayload, flagField_eq_write_of_ne_read hf], rfl⟩

/-! ### Operations and buffers there and back (R91, R94) -/

/-- R91: under any capacities, the decoder is the inverse of the encoder on well-formed operations. -/
theorem decode_encode {cap : Capacity} {i : Instr} (h : i.wellFormed cap = true) : decode (encode i) = .ok i := by
  cases i with
  | read a n =>
    simp only [Instr.wellFormed, Bool.and_eq_true, decide_eq_true_eq] at h
    obtain ⟨⟨ha, hn⟩, -⟩ := h
    exact decode_readPayload ha hn
  | write a data =>
    simp only [Instr.wellFormed, Bool.and_eq_true] at h
    obtain ⟨ha, -⟩ := h
    exact decode_writeControl ha data

/-- R94: cutting the buffer at the lengths gives back a list each of whose operations decodes by itself. -/
theorem decodeBuffer_flattenAll {ops : List Instr} (h : ∀ i ∈ ops, decode (encode i) = .ok i) :
    decodeBuffer (ops.map transmitLength) (Machine.flattenAll ops) = some ops := by
  induction ops with
  | nil => rfl
  | cons i is ih =>
    obtain ⟨hi, his⟩ := List.forall_mem_cons.1 h
    simp [decodeBuffer, hi, ih his]

/-- R12: the operations of a well-formed transaction are well-formed. -/
theorem wellFormed_of_mem {cap : Capacity} {ops : List Instr} (h : transactionWellFormed cap ops = true) :
    ∀ i ∈ ops, i.wellFormed cap = true := by
  simp only [transactionWellFormed, Bool.and_eq_true, List.all_eq_true] at h
  obtain ⟨⟨-, hall⟩, -⟩ := h
  exact hall

end Sys2Proof

namespace Sys2Proof.Machine

/-- Settles O6: `decode_encode`, by the two variants of an operation. -/
theorem decodeEncodeRoundTrip : Obligations.DecodeEncodeRoundTrip :=
  fun _ _ => decode_encode

/-- Settles O9: each operation of the transaction decodes by itself, so the buffer does, by induction on the list. -/
theorem bufferDecodesWithLengths : Obligations.BufferDecodesWithLengths :=
  fun _ _ h => decodeBuffer_flattenAll fun i hi => decode_encode (wellFormed_of_mem h i hi)

/-- Settles O7: the accepted bytes are one of the two payloads, by `eq_payload_of_decode`. -/
theorem decodedBytesAreThePayload : Obligations.DecodedBytesAreThePayload := by
  intro bytes i h
  rcases eq_payload_of_decode h with ⟨a, n, ha, hn, rfl, rfl⟩ | ⟨a, data, ha, rfl, rfl⟩
  · exact ⟨rfl, by simp [Instr.wellFormed, ha, hn, Capacity.unbounded, Bound.admits]⟩
  · exact ⟨rfl, by simp [Instr.wellFormed, ha, Capacity.unbounded, Bound.admits]⟩

/-- Settles O8: one clause for each pattern of control byte and of what follows it. -/
theorem reservedPatternsRefused : Obligations.ReservedPatternsRefused := by
  refine ⟨rfl, fun c rest => decode_reservedBit rest, fun c rest hres ha => ?_, fun a ha => ?_,
    fun a ha rest hbad => ?_, fun a ha n hn => ?_, fun a ha rest => ?_⟩
  · exact decode_reservedAddress rest hres (Bool.eq_false_iff.2 (mt Addr.valid_iff.1 ha))
  · exact (decode_readControl (Addr.valid_iff.2 ha) []).trans (if_pos rfl)
  · obtain ⟨b, hb, hne⟩ := hbad
    refine (decode_readControl (Addr.valid_iff.2 ha) rest).trans ?_
    rw [if_neg (List.ne_nil_of_mem hb), if_neg fun hall => hne (hall b hb)]
  · exact decode_readPayload (Addr.valid_iff.2 ha) hn
  · exact decode_writeControl (Addr.valid_iff.2 ha) rest

/-- Settles O5: each field of the control byte reads back what was put in. -/
theorem controlBytesDistinct : Obligations.ControlBytesDistinct := by
  intro a b f g h
  exact ⟨by simpa using congrArg addrField h, by simpa using congrArg flagField h⟩

/-- Settles O10: five payloads and the two table words, each by evaluating the decoder. -/
theorem sampleWordsDecode : Obligations.SampleWordsDecode :=
  ⟨rfl, rfl, rfl, rfl, rfl, rfl, rfl⟩

end Sys2Proof.Machine
end

section
/-! The family other: the fold as a numeral in base 256 (R119, R120). -/

namespace Sys2Proof.Machine

/-- R119: a fold of N bytes is a numeral of N digits in base 256. -/
theorem fold_lt (s : List Byte) : fold s < 256 ^ s.length := by
  induction s using List.reverseRecOn with
  | nil => simp
  | append_singleton s b ih =>
    rw [fold_concat, List.length_append, List.length_singleton, pow_succ]
    omega

/-- R120: sequences of one length with equal folds are equal, by their last bytes, which are the remainders
modulo 256. -/
theorem eq_of_fold_eq {s t : List Byte} (hlen : s.length = t.length) (h : fold s = fold t) : s = t := by
  induction s using List.reverseRecOn generalizing t with
  | nil => exact (List.eq_nil_of_length_eq_zero hlen.symm).symm
  | append_singleton s b ih =>
    rcases List.eq_nil_or_concat' t with rfl | ⟨t, c, rfl⟩
    · simp at hlen
    · rw [fold_concat, fold_concat] at h
      have hb : b = c := BitVec.eq_of_toNat_eq (by omega)
      have hs : s = t := ih (by simpa using hlen) (by omega)
      rw [hs, hb]

/-- R120: every natural below `256 ^ n` is the fold of its own n digits. -/
theorem exists_fold_eq {n v : Nat} (h : v < 256 ^ n) : ∃ s : List Byte, s.length = n ∧ fold s = v := by
  induction n generalizing v with
  | zero => exact ⟨[], rfl, by rw [fold_nil]; simpa [eq_comm] using h⟩
  | succ n ih =>
    rw [pow_succ] at h
    obtain ⟨s, hlen, hs⟩ := ih (v := v / 256) (by omega)
    refine ⟨s ++ [BitVec.ofNat 8 v], by simp [hlen], ?_⟩
    rw [fold_concat, hs, BitVec.toNat_ofNat]
    omega

/-- Settles O14: the bound, the injectivity and the surjectivity of the fold. -/
theorem foldIsBijective : Obligations.FoldIsBijective :=
  ⟨fold_lt, fun _ _ => eq_of_fold_eq, fun _ _ => exists_fold_eq⟩

end Sys2Proof.Machine
end

section
/-! The family other: the text form, written and read back (R95, R96). -/

namespace Sys2Proof.Machine

/-! ### Tokens to operations -/

theorem addrToken_hex (a : Addr) : addrToken (.hex a.toNat) = some a := by
  simp [addrToken, show a.toNat < 64 from a.isLt]

theorem byteToken_hex (b : Byte) : byteToken (.hex b.toNat) = some b := by
  simp [byteToken, show b.toNat < 256 from b.isLt]

/-- From the first byte of a Write on, the bytes written are read, and the closing bracket ends the operation. -/
theorem readTokens_more_bytes (done : List Instr) (a : Addr) (bytes data : List Byte) (b : Byte) :
    readTokens (.nextByte done a bytes) (byteTokens (b :: data) ++ [.closeBracket])
      = some (.afterOp (done ++ [.write a (bytes ++ b :: data)])) := by
  induction data generalizing b bytes with
  | nil => simp [byteTokens, readTokens, readToken, byteToken_hex]
  | cons c cs ih => simpa [byteTokens, readTokens, readToken, byteToken_hex] using ih (bytes ++ [b]) c

/-- The bytes of a Write, from its opening bracket to its closing one. -/
theorem readTokens_bytes (done : List Instr) (a : Addr) (data : List Byte) :
    readTokens (.firstByte done a) (byteTokens data ++ [.closeBracket])
      = some (.afterOp (done ++ [.write a data])) := by
  match data with
  | [] => simp [byteTokens, readTokens, readToken]
  | [b] => simp [byteTokens, readTokens, readToken, byteToken_hex]
  | b :: c :: cs =>
    simpa [byteTokens, readTokens, readToken, byteToken_hex] using readTokens_more_bytes done a [b] cs c

/-- One operation's tokens add that operation. -/
theorem readTokens_opTokens (done : List Instr) (mayClose : Bool) (i : Instr) :
    readTokens (.ready done mayClose) (opTokens i) = some (.afterOp (done ++ [i])) := by
  cases i with
  | read a n => simp [opTokens, readTokens, readToken, addrToken_hex]
  | write a data => simpa [opTokens, readTokens, readToken, addrToken_hex] using readTokens_bytes done a data

/-- The tokens of a non-empty list add its operations, whatever has been read before. -/
theorem readTokens_opsTokens (done : List Instr) (mayClose : Bool) (i : Instr) (is : List Instr) :
    readTokens (.ready done mayClose) (opsTokens (i :: is)) = some (.afterOp (done ++ i :: is)) := by
  induction is generalizing done mayClose i with
  | nil => exact readTokens_opTokens done mayClose i
  | cons j js ih =>
    rw [opsTokens, readTokens_append, readTokens_opTokens]
    simpa [readTokens, readToken] using ih (done ++ [i]) false j

/-- R95: the tokens written for a list are a transaction of exactly that list. -/
theorem parseTransaction_transactionTokens (ops : List Instr) :
    parseTransaction (transactionTokens ops) = some ops := by
  have hread : readTokens (.ready [] true) (opsTokens ops ++ [.closeBrace]) = some (.closed ops) := by
    cases ops with
    | nil => rfl
    | cons i is => simp [readTokens_append, readTokens_opsTokens, readTokens, readToken]
  simp [parseTransaction, transactionTokens, readTokens, readToken, hread]

/-- Settles O11: `parseTransaction_transactionTokens`, by induction on the list. -/
theorem tokensReadBack : Obligations.TokensReadBack :=
  parseTransaction_transactionTokens

/-! ### Characters to tokens -/

/-- The character neither separates words nor is a token by itself. -/
def IsWordChar (c : Char) : Prop := ¬(c = ' ' ∨ c.toNat = 9 ∨ c.toNat = 13) ∧ charToken c = none

/-- A run of word characters up to a blank is one word. -/
theorem tokenize_word {cs : List Char} (hcs : ∀ c ∈ cs, IsWordChar c) (w rest : List Char) :
    tokenize w (cs ++ ' ' :: rest) = flushWord (w ++ cs) (tokenize [] rest) := by
  induction cs generalizing w with
  | nil => simp [tokenize]
  | cons c cs ih =>
    obtain ⟨⟨hblank, htoken⟩, hcs⟩ := List.forall_mem_cons.1 hcs
    simpa [tokenize, hblank, htoken] using ih hcs (w ++ [c])

/-- A token written as a word of its own is cut off at the blank that follows it. -/
theorem tokenize_of_wordToken {cs : List Char} {t : Token} (hcs : ∀ c ∈ cs, IsWordChar c)
    (ht : wordToken cs = some t) (rest : List Char) :
    tokenize [] (cs ++ ' ' :: rest) = (tokenize [] rest).map (t :: ·) := by
  rw [tokenize_word hcs]
  cases cs with
  | nil => simp [wordToken] at ht
  | cons c cs => simp [flushWord, ht]

/-- A token that is one character needs no blank, and the one that follows it changes nothing. -/
theorem tokenize_of_charToken {c : Char} {t : Token} (hblank : ¬(c = ' ' ∨ c.toNat = 9 ∨ c.toNat = 13))
    (ht : charToken c = some t) (rest : List Char) :
    tokenize [] ([c] ++ ' ' :: rest) = (tokenize [] rest).map (t :: ·) := by
  simp [tokenize, hblank, ht, flushWord]

/-! ### Numerals -/

/-- The digits of a number are digits of the base. -/
theorem exists_digit_of_mem_digitChars {base fuel n : Nat} (hb : 0 < base) {c : Char}
    (hc : c ∈ digitChars base fuel n) : ∃ v < base, c = digitChar v := by
  induction fuel generalizing n with
  | zero => simp [digitChars] at hc
  | succ fuel ih =>
    unfold digitChars at hc
    split at hc
    · next hn => exact ⟨n, hn, List.mem_singleton.1 hc⟩
    · rcases List.mem_append.1 hc with hc | hc
      · exact ih hc
      · exact ⟨n % base, Nat.mod_lt _ hb, List.mem_singleton.1 hc⟩

theorem digitChars_ne_nil (base fuel n : Nat) : digitChars base (fuel + 1) n ≠ [] := by
  unfold digitChars
  split <;> simp

theorem isWordChar_digitChar : ∀ v < 16, IsWordChar (digitChar v) := by
  unfold IsWordChar
  decide

theorem isWordChar_of_mem_digitChars {base fuel n : Nat} (hb : 0 < base) (hb' : base ≤ 16) :
    ∀ c ∈ digitChars base fuel n, IsWordChar c := by
  intro c hc
  obtain ⟨v, hv, rfl⟩ := exists_digit_of_mem_digitChars hb hc
  exact isWordChar_digitChar v (by omega)

/-- No decimal digit starts a keyword or a name, and none is the `x` of a hexadecimal numeral. -/
theorem decimal_digit_ne_letter : ∀ v < 10, digitChar v ∉ ['O', 'R', 'W', 'C', 'S', 'x'] := by decide

/-- Decimal digits are read as a decimal numeral. -/
theorem wordToken_decimal {w : List Char} (hne : w ≠ []) (hw : ∀ c ∈ w, ∃ v < 10, c = digitChar v) :
    wordToken w = (numeral 10 0 w).map .dec := by
  have hletter : ∀ c ∈ w, c ∉ ['O', 'R', 'W', 'C', 'S', 'x'] := by
    intro c hc
    obtain ⟨v, hv, rfl⟩ := hw c hc
    exact decimal_digit_ne_letter v hv
  unfold wordToken
  split_ifs with h h h h h
  · simp [h] at hletter
  · simp [h] at hletter
  · simp [h] at hletter
  · simp [h] at hletter
  · simp [h] at hletter
  · split
    · simp at hletter
    · rfl
    · contradiction

/-- A hexadecimal numeral is read as its value. -/
theorem wordToken_hexadecimal (n : Nat) : wordToken (tokenChars (.hex n)) = some (.hex n) := by
  have hread := numeral_digitChars (base := 16) (by decide) (by decide) (Nat.lt_succ_self n)
  obtain ⟨c, cs, hcs⟩ := List.exists_cons_of_ne_nil (digitChars_ne_nil 16 n n)
  rw [Nat.succ_eq_add_one, hcs] at hread
  simp [tokenChars, hcs, wordToken, hread]

/-! ### A whole text -/

/-- R95: each token is read back from its characters and the blank after them. -/
theorem tokenize_tokenChars (t : Token) (rest : List Char) :
    tokenize [] (tokenChars t ++ ' ' :: rest) = (tokenize [] rest).map (t :: ·) := by
  cases t with
  | operate => exact tokenize_of_wordToken (by simp [tokenChars, IsWordChar, charToken]) rfl rest
  | openBrace => exact tokenize_of_charToken (by decide) (by decide) rest
  | closeBrace => exact tokenize_of_charToken (by decide) (by decide) rest
  | newline => exact tokenize_of_charToken (by decide) (by decide) rest
  | semicolon => exact tokenize_of_charToken (by decide) (by decide) rest
  | comma => exact tokenize_of_charToken (by decide) (by decide) rest
  | openBracket => exact tokenize_of_charToken (by decide) (by decide) rest
  | closeBracket => exact tokenize_of_charToken (by decide) (by decide) rest
  | read => exact tokenize_of_wordToken (by simp [tokenChars, IsWordChar, charToken]) rfl rest
  | write => exact tokenize_of_wordToken (by simp [tokenChars, IsWordChar, charToken]) rfl rest
  | hex n =>
    have hmarker : ∀ c ∈ ['0', 'x'], IsWordChar c := by simp [IsWordChar, charToken]
    have hword : ∀ c ∈ tokenChars (.hex n), IsWordChar c :=
      List.forall_mem_append.2 ⟨hmarker, isWordChar_of_mem_digitChars (by decide) (by decide)⟩
    exact tokenize_of_wordToken hword (wordToken_hexadecimal n) rest
  | dec n =>
    have hvalue : wordToken (tokenChars (.dec n)) = some (.dec n) := by
      rw [tokenChars, wordToken_decimal (digitChars_ne_nil 10 n n)
        fun c => exists_digit_of_mem_digitChars (by decide),
        numeral_digitChars (by decide) (by decide) (Nat.lt_succ_self n), Option.map_some]
    exact tokenize_of_wordToken (isWordChar_of_mem_digitChars (by decide) (by decide)) hvalue rest
  | name r => cases r <;> exact tokenize_of_wordToken (by simp [tokenChars, IsWordChar, charToken]) rfl rest

theorem tokenize_textOf (ts : List Token) : tokenize [] (textOf ts) = some ts := by
  induction ts with
  | nil => rfl
  | cons t ts ih => rw [textOf, tokenize_tokenChars, ih, Option.map_some]

/-- Settles O58: `tokenize_textOf`, then the tokens read back. -/
theorem textReadsBack : Obligations.TextReadsBack := by
  refine ⟨tokenize_textOf, fun ops => ?_⟩
  rw [assemble, tokenize_textOf, Option.bind_some, parseTransaction_transactionTokens]

end Sys2Proof.Machine
end

section
/-! The family other: what construction does to the state (R176 to R181, R187, R188). -/

namespace Sys2Proof.Machine

/-! ### The failed constraints and the unknown flags -/

/-- R188: the failed set holds the violated constraints, and there are no others than the four listed. -/
theorem mem_failedConstraints {limits : BusLimits} {bus : BusConfig} {c : Constraint} :
    c ∈ failedConstraints limits bus ↔ violates limits bus c = true := by
  cases c <;> simp [failedConstraints]

theorem mem_unrecognisedFlags {limits : BusLimits} {bus : BusConfig} {f : CapabilityFlag} :
    f ∈ unrecognisedFlags limits bus ↔ f ∈ bus.flags ∧ f ∉ limits.knownFlags := by
  simp [unrecognisedFlags]

theorem unrecognisedFlags_eq_nil {limits : BusLimits} {bus : BusConfig} :
    unrecognisedFlags limits bus = [] ↔ ∀ f ∈ bus.flags, f ∈ limits.knownFlags := by
  simp [unrecognisedFlags]

/-! ### The effect of construction -/

/-- The stage the check leaves (R176, R187). -/
def stageAfterCheck (failed : List Constraint) : Stage :=
  if failed = [] then .operational else .abandoned failed

/-- One `ConfigurationError` where a constraint failed (R188). -/
def errorEvents (failed : List Constraint) : List Event :=
  if failed = [] then [] else [.configurationError failed]

/-- One `ConfigurationWarning` where a flag is unknown (R181). -/
def warningEvents (flags : List CapabilityFlag) : List Event :=
  if flags = [] then [] else [.configurationWarning flags]

/-- The events of construction, the error before the warning (log 23). -/
def constructionEvents (limits : BusLimits) (bus : BusConfig) : List Event :=
  errorEvents (failedConstraints limits bus) ++ warningEvents (unrecognisedFlags limits bus)

theorem State.checked_eq (failed : List Constraint) (s : State) :
    s.checked failed = { s with stage := stageAfterCheck failed, history := s.history ++ errorEvents failed } := by
  cases failed with
  | nil => simp [State.checked, State.withStage, stageAfterCheck, errorEvents]
  | cons c cs => rfl

theorem State.warned_eq (flags : List CapabilityFlag) (s : State) :
    s.warned flags = { s with history := s.history ++ warningEvents flags } := by
  cases flags with
  | nil => simp [State.warned, warningEvents]
  | cons f fs => rfl

/-- Construction writes the stage and adds its events to the history, and touches nothing else (R39). -/
theorem construct_eq_with (limits : BusLimits) (bus : BusConfig) (s : State) :
    construct limits bus s =
      { s with
        stage := stageAfterCheck (failedConstraints limits bus)
        history := s.history ++ constructionEvents limits bus } := by
  rw [construct, State.checked_eq, State.warned_eq, constructionEvents, List.append_assoc]

theorem mem_errorEvents {failed : List Constraint} {e : Event} :
    e ∈ errorEvents failed ↔ failed ≠ [] ∧ e = .configurationError failed := by
  by_cases h : failed = [] <;> simp [errorEvents, h]

theorem mem_warningEvents {flags : List CapabilityFlag} {e : Event} :
    e ∈ warningEvents flags ↔ flags ≠ [] ∧ e = .configurationWarning flags := by
  by_cases h : flags = [] <;> simp [warningEvents, h]

theorem mem_constructionEvents {limits : BusLimits} {bus : BusConfig} {e : Event} :
    e ∈ constructionEvents limits bus ↔
      (failedConstraints limits bus ≠ [] ∧ e = .configurationError (failedConstraints limits bus)) ∨
      (unrecognisedFlags limits bus ≠ [] ∧ e = .configurationWarning (unrecognisedFlags limits bus)) := by
  rw [constructionEvents, List.mem_append, mem_errorEvents, mem_warningEvents]

/-- R182: the step of a block under construction is its construction. -/
theorem step_construction {s : State} {limits : BusLimits} {bus : BusConfig}
    (h : s.stage = .construction limits bus) : step s = .next (construct limits bus s) := by
  rw [step_coordinate (fetched_eq_none_of_construction h)]
  simp [coordinate, h]

/-! ### The statements about construction -/

/-- Settles O51: the failed set by `mem_failedConstraints`, the two outcomes by `construct_eq_with`. -/
theorem configurationCheck : Obligations.ConfigurationCheck := by
  intro s limits bus hst hflags
  have hnone : unrecognisedFlags limits bus = [] := by simp [unrecognisedFlags, hflags]
  refine ⟨failedConstraints limits bus, ?_, ?_, ?_, ?_, fun hfailed => ?_, fun hfailed => ?_⟩
  · simp [mem_failedConstraints, violates]
  · exact mem_failedConstraints.trans decide_eq_true_iff
  · exact mem_failedConstraints.trans decide_eq_true_iff
  · exact mem_failedConstraints.trans decide_eq_true_iff
  · simp [step_construction hst, construct_eq_with, stageAfterCheck, constructionEvents, errorEvents, warningEvents,
      hfailed, hnone]
  · simp [step_construction hst, construct_eq_with, stageAfterCheck, constructionEvents, errorEvents, warningEvents,
      hfailed, hnone]

/-- Settles O52: the check does not look at the flags, so construction without them is the same but for the warning. -/
theorem unknownFlagsOnlyWarn : Obligations.UnknownFlagsOnlyWarn := by
  intro s limits bus hst
  have hfailed : failedConstraints limits { bus with flags := [] } = failedConstraints limits bus := rfl
  have hnone : unrecognisedFlags limits { bus with flags := [] } = [] := rfl
  refine ⟨_, step_construction rfl, fun hknown => ?_, fun ⟨f, hf, hunknown⟩ => ?_⟩
  · simp [step_construction hst, construct_eq_with, constructionEvents, hfailed, hnone, unrecognisedFlags_eq_nil.2 hknown]
  · have hne : unrecognisedFlags limits bus ≠ [] := List.ne_nil_of_mem (mem_unrecognisedFlags.2 ⟨hf, hunknown⟩)
    refine ⟨unrecognisedFlags limits bus, fun f => mem_unrecognisedFlags, ?_⟩
    simp [step_construction hst, construct_eq_with, constructionEvents, warningEvents, hfailed, hnone, hne]

/-- The configuration that runs in this mode at the ceiling, in the byte order and width the core needs and with no
flag. -/
def configAtCeiling (limits : BusLimits) (mode : ClockMode) : BusConfig where
  mode := mode
  speedHz := limits.maxClockHz
  bitOrder := .msbFirst
  wordBits := Config.wordBitCount
  flags := []

/-- R178: a speed equal to the ceiling passes. -/
theorem failedConstraints_configAtCeiling {limits : BusLimits} {mode : ClockMode}
    (h : mode ∈ limits.supportedModes) : failedConstraints limits (configAtCeiling limits mode) = [] := by
  simp [failedConstraints, violates, configAtCeiling, h]

/-- Settles O54: a supported mode at the ceiling passes, and a configuration that passes has a supported mode and a speed
below the ceiling. -/
theorem legalLimitsAdmitAConfiguration : Obligations.LegalLimitsAdmitAConfiguration := by
  intro limits
  rw [busLimits_legal_iff]
  constructor
  · rintro ⟨hmodes, hclock⟩
    obtain ⟨mode, hmode⟩ := List.exists_mem_of_ne_nil _ hmodes
    refine ⟨configAtCeiling limits mode, hclock, ?_⟩
    rw [step_construction rfl, construct_eq_with, constructionEvents, failedConstraints_configAtCeiling hmode]
    rfl
  · rintro ⟨bus, hspeed, hstep⟩
    rw [step_construction rfl, construct_eq_with] at hstep
    have hstage : stageAfterCheck (failedConstraints limits bus) = .operational :=
      congrArg State.stage (Host.Outcome.next.inj hstep)
    have hfailed : failedConstraints limits bus = [] := by
      by_contra hne
      simp [stageAfterCheck, hne] at hstage
    have hpasses (c : Constraint) : violates limits bus c = false := by
      rw [← Bool.not_eq_true, ← mem_failedConstraints, hfailed]
      exact List.not_mem_nil
    have hmode : bus.mode ∈ limits.supportedModes := by simpa [violates] using hpasses .mode
    have hle : bus.speedHz ≤ limits.maxClockHz := by simpa [violates] using hpasses .speed
    exact ⟨List.ne_nil_of_mem hmode, hspeed.trans_le hle⟩

/-- R187: an abandoned block has no step. -/
theorem step_abandoned {s : State} {failed : List Constraint} (h : s.stage = .abandoned failed) :
    step s = .fault (.configurationError failed) := by
  rw [step_coordinate (by simp [fetched, h])]
  simp [coordinate, h]

/-- Settles O53: a run stops at its first step. -/
theorem abandonedBlockNeverRuns : Obligations.AbandonedBlockNeverRuns :=
  fun _ _ _ h => ⟨step_abandoned h, by rw [steps, step_abandoned h]⟩

end Sys2Proof.Machine
end

section
/-! The family other: every step that answers a next state, as one relation with a constructor per row of the step table
(41_coordinator.md section 2; R182). -/

namespace Sys2Proof.Machine

/-! ### The host's turn (R36, R92, R142) -/

/-- With no call to take, the host's turn changes nothing (log 7). -/
theorem serveHost_of_nil {s : State} (h : s.calls = []) : serveHost s = s := by
  simp [serveHost, h]

theorem step_uncalled {s : State} (hst : s.stage = .operational) (hp : s.phase = .idle) (hc : s.calls = []) :
    step s = .next s := by
  rw [step_idle hst hp, serveHost_of_nil hc]

/-- R54: with no answer the exchange hangs. -/
theorem step_unanswered {s : State} (hst : s.stage = .operational) (hp : s.phase = .exchange)
    (ha : s.answers = []) : step s = .next s := by
  rw [step_coordinate (fetched_eq_none_of_not_walks (by rw [hp]; rfl))]
  simp [coordinate, serveTransport, hst, hp, ha]

/-! ### The relation -/

/-- One step from `s`, with the events it adds to the history, to a next state. -/
inductive Move (s : State) : List Event → State → Prop where
  /-- Construction (R176). -/
  | construct {limits : BusLimits} {bus : BusConfig} (hst : s.stage = .construction limits bus) :
      Move s (constructionEvents limits bus) (construct limits bus s)
  /-- IDLE without a call (R36; log 7). -/
  | uncalled (hst : s.stage = .operational) (hp : s.phase = .idle) (hc : s.calls = []) : Move s [] s
  /-- Accept (R142). -/
  | accept {ops : List Instr} {rest : List (List Instr)} (hst : s.stage = .operational) (hp : s.phase = .idle)
      (hc : s.calls = ops :: rest) (hwf : transactionWellFormed s.cap ops = true) :
      Move s [] ((s.withCalls rest).accepted ops)
  /-- Refuse (R92). -/
  | refuse {ops : List Instr} {rest : List (List Instr)} (hst : s.stage = .operational) (hp : s.phase = .idle)
      (hc : s.calls = ops :: rest) (hwf : transactionWellFormed s.cap ops = false) :
      Move s [.refused (refusalReasons s.cap ops)]
        ((s.withCalls rest).emit (.refused (refusalReasons s.cap ops)))
  /-- A flatten step (R143). -/
  | flatten {ops : List Instr} {n : Nat} {i : Instr} {tx : List Byte} {len : List Nat}
      (hst : s.stage = .operational) (hp : s.phase = .flatten) (ho : s.ops = some ops) (hn : s.idx = some n)
      (hi : ops[n]? = some i) (htx : s.tx = some tx) (hl : s.len = some len) :
      Move s [] (s.flattened n tx len (encode i))
  /-- Issue (R144). -/
  | issue {ops : List Instr} {tx : List Byte} (hst : s.stage = .operational) (hp : s.phase = .flatten)
      (ho : s.ops = some ops) (hn : s.idx = some ops.length) (htx : s.tx = some tx) :
      Move s [.transfer tx] (s.issued tx)
  /-- EXCHANGE without an answer (R54; log 7). -/
  | unanswered (hst : s.stage = .operational) (hp : s.phase = .exchange) (ha : s.answers = []) : Move s [] s
  /-- The transport reports failure (R175). -/
  | fail {e : FailureReport} {rest : List Answer} (hst : s.stage = .operational) (hp : s.phase = .exchange)
      (ha : s.answers = .fail e :: rest) :
      Move s [.abort (.transportFailure e)] ((s.withAnswers rest).aborted (.transportFailure e))
  /-- An answer of the right length (R146). -/
  | answer {rx tx : List Byte} {rest : List Answer} (hst : s.stage = .operational) (hp : s.phase = .exchange)
      (ha : s.answers = .bytes rx :: rest) (htx : s.tx = some tx) (hlen : rx.length = tx.length) :
      Move s [] ((s.withAnswers rest).answered rx)
  /-- An answer of another length (R146). -/
  | mismatch {rx tx : List Byte} {rest : List Answer} (hst : s.stage = .operational) (hp : s.phase = .exchange)
      (ha : s.answers = .bytes rx :: rest) (htx : s.tx = some tx) (hlen : rx.length ≠ tx.length) :
      Move s [.abort (.protocolInvariantViolation tx.length rx.length)]
        ((s.withAnswers rest).aborted (.protocolInvariantViolation tx.length rx.length))
  /-- A demultiplex step (R147). -/
  | demux {ops : List Instr} {n : Nat} {i : Instr} {len : List Nat} {rx : List Byte} {cur l : Nat}
      {res : List Result} {r : Result} (hst : s.stage = .operational) (hp : s.phase = .demux)
      (ho : s.ops = some ops) (hn : s.idx = some n) (hi : ops[n]? = some i) (hl : s.len = some len)
      (hrx : s.rx = some rx) (hc : s.cur = some cur) (hr : s.res = some res) (hln : len[n]? = some l)
      (hpa : parse i ((rx.drop cur).take l) = some r) : Move s [] (s.demultiplexed n cur l res r)
  /-- Return (R149). -/
  | giveBack {ops : List Instr} {res : List Result} (hst : s.stage = .operational) (hp : s.phase = .demux)
      (ho : s.ops = some ops) (hn : s.idx = some ops.length) (hr : s.res = some res) :
      Move s [.results res] (s.emit (.results res)).released

/-- The host's turn is one of three moves. -/
theorem exists_move_serveHost {s : State} (hst : s.stage = .operational) (hp : s.phase = .idle) :
    ∃ events, Move s events (serveHost s) := by
  cases hc : s.calls with
  | nil =>
    rw [serveHost_of_nil hc]
    exact ⟨_, .uncalled hst hp hc⟩
  | cons ops rest =>
    cases hwf : transactionWellFormed s.cap ops with
    | true =>
      have h := (step_idle hst hp).symm.trans (step_accept hst hp hc hwf)
      exact Host.Outcome.next.inj h ▸ ⟨_, .accept hst hp hc hwf⟩
    | false =>
      have h := (step_idle hst hp).symm.trans (step_refused_call hst hp hc hwf)
      exact Host.Outcome.next.inj h ▸ ⟨_, .refuse hst hp hc hwf⟩

/-- A step that answers a next state is a move. -/
theorem exists_move {s t : State} (h : step s = .next t) : ∃ events, Move s events t := by
  rcases step_cases h with ⟨limits, bus, hst, rfl⟩ | ⟨hst, hp, rfl⟩ |
    ⟨hst, hp, ops, n, i, tx, len, ho, hn, hi, htx, hl, rfl⟩ | ⟨hst, hp, ops, tx, ho, hn, htx, rfl⟩ |
    ⟨hst, hp, ha, rfl⟩ | ⟨hst, hp, e, rest, ha, rfl⟩ | ⟨hst, hp, rx, rest, tx, ha, htx, hlen, rfl⟩ |
    ⟨hst, hp, rx, rest, tx, ha, htx, hlen, rfl⟩ |
    ⟨hst, hp, ops, n, i, len, rx, cur, res, l, r, ho, hn, hi, hl, hrx, hc, hr, hln, hpa, rfl⟩ |
    ⟨hst, hp, ops, res, ho, hn, hr, rfl⟩
  · exact ⟨_, .construct hst⟩
  · exact exists_move_serveHost hst hp
  · exact ⟨_, .flatten hst hp ho hn hi htx hl⟩
  · exact ⟨_, .issue hst hp ho hn htx⟩
  · exact ⟨_, .unanswered hst hp ha⟩
  · exact ⟨_, .fail hst hp ha⟩
  · exact ⟨_, .answer hst hp ha htx hlen⟩
  · exact ⟨_, .mismatch hst hp ha htx hlen⟩
  · exact ⟨_, .demux hst hp ho hn hi hl hrx hc hr hln (slice_eq rx cur l ▸ hpa)⟩
  · exact ⟨_, .giveBack hst hp ho hn hr⟩

/-- Every move is a step. -/
theorem Move.step {s t : State} {events : List Event} (h : Move s events t) : step s = .next t := by
  cases h with
  | construct hst => exact step_construction hst
  | uncalled hst hp hc => exact step_uncalled hst hp hc
  | accept hst hp hc hwf => exact step_accept hst hp hc hwf
  | refuse hst hp hc hwf => exact step_refused_call hst hp hc hwf
  | flatten hst hp ho hn hi htx hl => exact step_flatten hst hp ho hn hi htx hl
  | issue hst hp ho hn htx => exact step_issue hst hp ho hn htx
  | unanswered hst hp ha => exact step_unanswered hst hp ha
  | fail hst hp ha => exact step_answer hst hp ha (takeAnswer_eq_next.2 (.inl ⟨_, rfl, rfl⟩))
  | answer hst hp ha htx hlen =>
    exact step_answer hst hp ha (takeAnswer_eq_next.2 (.inr (.inl ⟨_, _, rfl, htx, hlen, rfl⟩)))
  | mismatch hst hp ha htx hlen =>
    exact step_answer hst hp ha (takeAnswer_eq_next.2 (.inr (.inr ⟨_, _, rfl, htx, hlen, rfl⟩)))
  | demux hst hp ho hn hi hl hrx hc hr hln hpa => exact step_demux hst hp ho hn hi hl hrx hc hr hln hpa
  | giveBack hst hp ho hn hr => exact step_return hst hp ho hn hr

/-! ### What a move adds to the history and leaves unchanged -/

theorem Move.history {s t : State} {events : List Event} (h : Move s events t) :
    t.history = s.history ++ events := by
  cases h with
  | construct hst => rw [construct_eq_with]
  | uncalled | accept | flatten | unanswered | answer | demux => exact (List.append_nil _).symm
  | refuse | issue | fail | mismatch | giveBack => rfl

/-- The events a step has added are those of its move. -/
theorem move_of_history {s t : State} {events : List Event} (h : Machine.step s = .next t)
    (hadd : t.history = s.history ++ events) : Move s events t := by
  obtain ⟨added, hmove⟩ := exists_move h
  obtain rfl : added = events := List.append_cancel_left (hmove.history.symm.trans hadd)
  exact hmove

/-- No move reads the history: the same move leads on from any other past. -/
theorem Move.with_past {s t : State} {events : List Event} (h : Move s events t) (past : List Event) :
    Move { s with history := past } events { t with history := past ++ events } := by
  cases h with
  | construct hst => simpa [construct_eq_with] using Move.construct (s := { s with history := past }) hst
  | uncalled hst hp hc => exact (List.append_nil past).symm ▸ .uncalled hst hp hc
  | accept hst hp hc hwf => exact (List.append_nil past).symm ▸ .accept hst hp hc hwf
  | refuse hst hp hc hwf => exact .refuse hst hp hc hwf
  | flatten hst hp ho hn hi htx hl => exact (List.append_nil past).symm ▸ .flatten hst hp ho hn hi htx hl
  | issue hst hp ho hn htx => exact .issue hst hp ho hn htx
  | unanswered hst hp ha => exact (List.append_nil past).symm ▸ .unanswered hst hp ha
  | fail hst hp ha => exact .fail hst hp ha
  | answer hst hp ha htx hlen => exact (List.append_nil past).symm ▸ .answer hst hp ha htx hlen
  | mismatch hst hp ha htx hlen => exact .mismatch hst hp ha htx hlen
  | demux hst hp ho hn hi hl hrx hc hr hln hpa =>
    exact (List.append_nil past).symm ▸ .demux hst hp ho hn hi hl hrx hc hr hln hpa
  | giveBack hst hp ho hn hr => exact .giveBack hst hp ho hn hr

/-- Settles O41: the step's move, led on from the other past. -/
theorem historyIsOnlyAddedTo : Obligations.HistoryIsOnlyAddedTo := by
  intro s t h
  obtain ⟨events, hmove⟩ := exists_move h
  exact ⟨events, hmove.history, fun past => (hmove.with_past past).step⟩

theorem Move.cap_eq {s t : State} {events : List Event} (h : Move s events t) : t.cap = s.cap := by
  cases h with
  | construct hst => rw [construct_eq_with]
  | _ => rfl

/-- R182: only construction changes the stage. -/
theorem Move.stage_eq {s t : State} {events : List Event} (h : Move s events t) :
    t.stage = s.stage ∨ ∃ limits bus, s.stage = .construction limits bus
      ∧ t.stage = stageAfterCheck (failedConstraints limits bus) := by
  cases h with
  | construct hst => exact .inr ⟨_, _, hst, by rw [construct_eq_with]⟩
  | _ => exact .inl rfl

/-- Settles O50: by the two lemmas on the capacities and the stage. -/
theorem parametersAndStageFixed : Obligations.ParametersAndStageFixed := by
  intro s t h
  obtain ⟨events, hmove⟩ := exists_move h
  exact ⟨hmove.cap_eq, fun hbuilt =>
    hmove.stage_eq.resolve_right fun ⟨limits, bus, hst, _⟩ => hbuilt limits bus hst⟩

/-- R36: only the host's turn, in IDLE, takes a call. -/
theorem Move.calls_taken {s t : State} {events : List Event} (h : Move s events t) :
    t.calls = s.calls ∨ (s.phase = .idle ∧ ∃ ops, s.calls = ops :: t.calls) := by
  cases h with
  | construct hst => exact .inl (by rw [construct_eq_with])
  | accept hst hp hc hwf => exact .inr ⟨hp, _, hc⟩
  | refuse hst hp hc hwf => exact .inr ⟨hp, _, hc⟩
  | _ => exact .inl rfl

/-- R145: only EXCHANGE takes an answer. -/
theorem Move.answers_taken {s t : State} {events : List Event} (h : Move s events t) :
    t.answers = s.answers ∨ (s.phase = .exchange ∧ ∃ a, s.answers = a :: t.answers) := by
  cases h with
  | construct hst => exact .inl (by rw [construct_eq_with])
  | fail hst hp ha => exact .inr ⟨hp, _, ha⟩
  | answer hst hp ha htx hlen => exact .inr ⟨hp, _, ha⟩
  | mismatch hst hp ha htx hlen => exact .inr ⟨hp, _, ha⟩
  | _ => exact .inl rfl

/-- Settles O49: by the two lemmas on the inputs. -/
theorem inputsTakenInOrder : Obligations.InputsTakenInOrder := by
  intro s t h
  obtain ⟨events, hmove⟩ := exists_move h
  exact ⟨hmove.calls_taken, hmove.answers_taken⟩

/-- R23: outside IDLE a move leaves `OPS` as it is or ends the call. -/
theorem Move.ops_borrowed {s t : State} {events : List Event} (h : Move s events t) (hp : s.phase ≠ .idle) :
    t.ops = s.ops ∨ (t.phase = .idle ∧ t.ops = none) := by
  cases h with
  | construct hst => exact .inl (by rw [construct_eq_with])
  | uncalled hst hidle => exact absurd hidle hp
  | accept hst hidle => exact absurd hidle hp
  | refuse hst hidle => exact absurd hidle hp
  | flatten | issue | unanswered | answer | demux => exact .inl rfl
  | fail | mismatch | giveBack => exact .inr ⟨rfl, rfl⟩

/-- Settles O44: by `Move.ops_borrowed`. -/
theorem borrowedListUnchanged : Obligations.BorrowedListUnchanged := by
  intro s t hp h _
  obtain ⟨events, hmove⟩ := exists_move h
  exact hmove.ops_borrowed hp

end Sys2Proof.Machine
end

section
/-! The family other: the invariant of the working registers (R31, R43), and where transfers and errors come from. -/

namespace Sys2Proof.Machine

/-! ### The invariant, phase by phase -/

theorem Invariant.of_idle {s : State} (hpar : ParametersLegal s) (hp : s.phase = .idle) (hregs : NoValues s) :
    Invariant s :=
  ⟨hpar, fun _ => hp, by rwa [hp]⟩

theorem Invariant.of_flatten {s : State} (hpar : ParametersLegal s) (hst : s.stage = .operational)
    (hp : s.phase = .flatten) (hregs : FlattenInv s) : Invariant s :=
  ⟨hpar, absurd hst, by rwa [hp]⟩

theorem Invariant.of_exchange {s : State} (hpar : ParametersLegal s) (hst : s.stage = .operational)
    (hp : s.phase = .exchange) (hregs : ExchangeInv s) : Invariant s :=
  ⟨hpar, absurd hst, by rwa [hp]⟩

theorem Invariant.of_demux {s : State} (hpar : ParametersLegal s) (hst : s.stage = .operational)
    (hp : s.phase = .demux) (hregs : DemuxInv s) : Invariant s :=
  ⟨hpar, absurd hst, by rwa [hp]⟩

theorem Invariant.parametersLegal {s : State} (h : Invariant s) : ParametersLegal s := by
  obtain ⟨hpar, -⟩ := h
  exact hpar

theorem Invariant.noValues {s : State} (h : Invariant s) (hp : s.phase = .idle) : NoValues s := by
  obtain ⟨-, -, hregs⟩ := h
  rwa [hp] at hregs

theorem Invariant.flattenInv {s : State} (h : Invariant s) (hp : s.phase = .flatten) : FlattenInv s := by
  obtain ⟨-, -, hregs⟩ := h
  rwa [hp] at hregs

/-- A block under construction is between calls (R182). -/
theorem Invariant.idle_of_construction {s : State} {limits : BusLimits} {bus : BusConfig} (h : Invariant s)
    (hst : s.stage = .construction limits bus) : s.phase = .idle := by
  obtain ⟨-, hidle, -⟩ := h
  exact hidle (by simp [hst])

/-- The invariant of FLATTEN for the list in `OPS` and the position in `IDX` (R31). -/
theorem FlattenInv.registers {s : State} {ops : List Instr} {n : Nat} (h : FlattenInv s) (ho : s.ops = some ops)
    (hn : s.idx = some n) :
    transactionWellFormed s.cap ops = true ∧ s.tx = some (flattenAll (ops.take n))
      ∧ s.len = some ((ops.take n).map transmitLength) ∧ s.rx = none ∧ s.cur = none ∧ s.res = some [] := by
  obtain ⟨ops', n', hwf, -, ho', hn', htx, hl, hrx, hc, hr⟩ := h
  obtain rfl : ops = ops' := by simpa [ho] using ho'
  obtain rfl : n = n' := by simpa [hn] using hn'
  exact ⟨hwf, htx, hl, hrx, hc, hr⟩

/-! ### Every move keeps it -/

/-- R188: an abandoned block has a failed constraint. -/
theorem stageAfterCheck_legal (failed : List Constraint) : (stageAfterCheck failed).legal = true := by
  cases failed <;> rfl

theorem Move.parametersLegal {s t : State} {events : List Event} (h : Move s events t) (hpar : ParametersLegal s) :
    ParametersLegal t := by
  obtain ⟨hcap, hstage⟩ := hpar
  refine ⟨h.cap_eq ▸ hcap, ?_⟩
  rcases h.stage_eq with hst | ⟨limits, bus, -, hst⟩
  · rwa [hst]
  · rw [hst]
    exact stageAfterCheck_legal _

/-- R142: an accepted list is well-formed, and none of it is flattened yet. -/
theorem flattenInv_accepted {s : State} {ops : List Instr} {rest : List (List Instr)} (hregs : NoValues s)
    (hwf : transactionWellFormed s.cap ops = true) : FlattenInv ((s.withCalls rest).accepted ops) := by
  obtain ⟨-, -, -, -, hrx, hc, -⟩ := hregs
  exact ⟨ops, 0, hwf, Nat.zero_le _, rfl, rfl, rfl, rfl, hrx, hc, rfl⟩

/-- R143: one operation more is in `TX` and `LEN`. -/
theorem flattenInv_flattened {s : State} {ops : List Instr} {n : Nat} {i : Instr} {tx : List Byte} {len : List Nat}
    (h : FlattenInv s) (ho : s.ops = some ops) (hn : s.idx = some n) (hi : ops[n]? = some i) (htx : s.tx = some tx)
    (hl : s.len = some len) : FlattenInv (s.flattened n tx len (encode i)) := by
  obtain ⟨hwf, htx', hl', hrx, hc, hr⟩ := h.registers ho hn
  obtain rfl : flattenAll (ops.take n) = tx := by simpa [htx] using htx'.symm
  obtain rfl : (ops.take n).map transmitLength = len := by simpa [hl] using hl'.symm
  have hlt : n < ops.length := (List.getElem?_eq_some_iff.1 hi).1
  exact ⟨ops, n + 1, hwf, hlt, ho, rfl, congrArg some (flattenAll_take_succ hi).symm,
    congrArg some (lengths_take_succ hi).symm, hrx, hc, hr⟩

/-- R144: at the end of the walk the whole list is in `TX` and `LEN`. -/
theorem exchangeInv_issued {s : State} {ops : List Instr} (tx : List Byte) (h : FlattenInv s)
    (ho : s.ops = some ops) (hn : s.idx = some ops.length) : ExchangeInv (s.issued tx) := by
  obtain ⟨hwf, htx, hl, hrx, hc, hr⟩ := h.registers ho hn
  rw [List.take_length] at htx hl
  exact ⟨ops, hwf, ho, hn, htx, hl, hrx, hc, hr⟩

/-- R146: the response has the length of `TX`, and no slice of it is parsed yet. -/
theorem demuxInv_answered {s : State} {rx tx : List Byte} {rest : List Answer} (h : ExchangeInv s)
    (htx : s.tx = some tx) (hlen : rx.length = tx.length) : DemuxInv ((s.withAnswers rest).answered rx) := by
  obtain ⟨ops, hwf, ho, -, htx', hl, -, -, hr⟩ := h
  obtain rfl : flattenAll ops = tx := by simpa [htx] using htx'.symm
  exact ⟨ops, 0, rx, [], hwf, Nat.zero_le _, ho, rfl, htx', hl, rfl, hlen, rfl, hr, rfl⟩

/-- R148: one operation more of the list parses the slice at the sum of the lengths before it. -/
theorem demuxAll_take_succ {ops : List Instr} {n : Nat} {i : Instr} {rx : List Byte} {res : List Result} {r : Result}
    (hi : ops[n]? = some i) (hd : demuxAll (ops.take n) rx = some res)
    (hpa : parse i ((rx.drop ((ops.take n).map transmitLength).sum).take (transmitLength i)) = some r) :
    demuxAll (ops.take (n + 1)) rx = some (res ++ [r]) := by
  have hlast : demuxAll [i] (rx.drop ((ops.take n).map transmitLength).sum) = some [r] := by
    simp only [demuxAll, hpa]
  rw [List.take_add_one, hi]
  exact demuxAll_append hd hlast

/-- R147: the cursor and the results are those of one operation more. -/
theorem demuxInv_demultiplexed {s : State} {ops : List Instr} {n : Nat} {i : Instr} {len : List Nat}
    {rx : List Byte} {cur l : Nat} {res : List Result} {r : Result} (h : DemuxInv s) (ho : s.ops = some ops)
    (hn : s.idx = some n) (hi : ops[n]? = some i) (hl : s.len = some len) (hrx : s.rx = some rx)
    (hc : s.cur = some cur) (hr : s.res = some res) (hln : len[n]? = some l)
    (hpa : parse i ((rx.drop cur).take l) = some r) : DemuxInv (s.demultiplexed n cur l res r) := by
  obtain ⟨ops', n', rx', res', hwf, -, ho', hn', htx, hl', hrx', hlen, hc', hr', hd⟩ := h
  obtain rfl : ops = ops' := by simpa [ho] using ho'
  obtain rfl : n = n' := by simpa [hn] using hn'
  obtain rfl : rx = rx' := by simpa [hrx] using hrx'
  obtain rfl : res = res' := by simpa [hr] using hr'
  obtain rfl : cur = ((ops.take n).map transmitLength).sum := by simpa [hc] using hc'
  obtain rfl : len = ops.map transmitLength := by simpa [hl] using hl'
  obtain rfl : transmitLength i = l := by simpa [lengths_getElem? hi] using hln
  have hlt : n < ops.length := (List.getElem?_eq_some_iff.1 hi).1
  have hcur : ((ops.take n).map transmitLength).sum + transmitLength i
      = ((ops.take (n + 1)).map transmitLength).sum := by
    rw [lengths_take_succ hi, List.sum_append, List.sum_singleton]
  exact ⟨ops, n + 1, rx, res ++ [r], hwf, hlt, ho, rfl, htx, hl, hrx, hlen, congrArg some hcur, rfl,
    demuxAll_take_succ hi hd hpa⟩

/-- R31: the invariant holds after every move, by the phase the move goes to. -/
theorem Move.keeps_invariant {s t : State} {events : List Event} (h : Move s events t) (hinv : Invariant s) :
    Invariant t := by
  have hpar : ParametersLegal t := h.parametersLegal hinv.parametersLegal
  cases h with
  | construct hst =>
    have hp := hinv.idle_of_construction hst
    have hregs := hinv.noValues hp
    rw [construct_eq_with] at hpar ⊢
    exact .of_idle hpar hp hregs
  | uncalled => exact hinv
  | accept hst hp hc hwf => exact .of_flatten hpar hst rfl (flattenInv_accepted (hinv.noValues hp) hwf)
  | refuse hst hp hc hwf => exact .of_idle hpar hp (hinv.noValues hp)
  | flatten hst hp ho hn hi htx hl =>
    exact .of_flatten hpar hst hp (flattenInv_flattened (hinv.flattenInv hp) ho hn hi htx hl)
  | issue hst hp ho hn htx => exact .of_exchange hpar hst rfl (exchangeInv_issued _ (hinv.flattenInv hp) ho hn)
  | unanswered => exact hinv
  | answer hst hp ha htx hlen => exact .of_demux hpar hst rfl (demuxInv_answered (hinv.exchangeInv hp) htx hlen)
  | demux hst hp ho hn hi hl hrx hc hr hln hpa =>
    exact .of_demux hpar hst hp (demuxInv_demultiplexed (hinv.demuxInv hp) ho hn hi hl hrx hc hr hln hpa)
  | fail | mismatch | giveBack => exact .of_idle hpar rfl ⟨rfl, rfl, rfl, rfl, rfl, rfl, rfl⟩

/-- Settles O36: the step is a move, and every move keeps the invariant. -/
theorem invariantPreserved : Obligations.InvariantPreserved := by
  intro s t hinv h
  obtain ⟨events, hmove⟩ := exists_move h
  exact hmove.keeps_invariant hinv

/-! ### At reset (R43) -/

theorem noValues_reset : NoValues State.reset := ⟨rfl, rfl, rfl, rfl, rfl, rfl, rfl⟩

/-- Settles O34: by the reset state's own fields. -/
theorem powerOnHoldsNoValue : Obligations.PowerOnHoldsNoValue :=
  ⟨rfl, noValues_reset, rfl⟩

/-- Settles O35: unbounded capacities are legal, and no register holds a value. -/
theorem resetMeetsInvariant : Obligations.ResetMeetsInvariant :=
  .of_idle ⟨rfl, rfl⟩ rfl noValues_reset

/-! ### Progress (R31) -/

/-- Issue, with the buffer the invariant says `TX` holds (R144). -/
theorem step_issue_of_invariant {s : State} {ops : List Instr} (hinv : Invariant s) (hp : s.phase = .flatten)
    (ho : s.ops = some ops) (hn : s.idx = some ops.length) :
    s.tx = some (flattenAll ops) ∧ step s = .next (s.issued (flattenAll ops)) := by
  obtain ⟨-, htx, -⟩ := (hinv.flattenInv hp).registers ho hn
  rw [List.take_length] at htx
  exact ⟨htx, step_issue (hinv.operational (by simp [hp])) hp ho hn htx⟩

/-- Settles O27: `step_issue_of_invariant`, with the issued state written out. -/
theorem issueSendsTheBuffer : Obligations.IssueSendsTheBuffer :=
  fun _ _ => step_issue_of_invariant

/-- A walk is at an operation or at its end. -/
theorem getElem?_or_eq_length {ops : List Instr} {n : Nat} (h : n ≤ ops.length) :
    (∃ i, ops[n]? = some i) ∨ n = ops.length := by
  rcases h.lt_or_eq with hlt | heq
  · exact .inl ⟨_, List.getElem?_eq_getElem hlt⟩
  · exact .inr heq

theorem exists_step_of_flatten {s : State} (hinv : Invariant s) (hp : s.phase = .flatten) : ∃ t, step s = .next t := by
  obtain ⟨ops, n, -, hle, ho, hn, -⟩ := hinv.flattenInv hp
  rcases getElem?_or_eq_length hle with ⟨i, hi⟩ | rfl
  · obtain ⟨tx, len, -, -, hstep⟩ := flattenStepAppendsPayload s ops n i hinv hp ho hn hi
    exact ⟨_, hstep⟩
  · exact ⟨_, (step_issue_of_invariant hinv hp ho hn).2⟩

theorem exists_step_of_exchange {s : State} (hst : s.stage = .operational) (hp : s.phase = .exchange) {tx : List Byte}
    (htx : s.tx = some tx) : ∃ t, step s = .next t := by
  cases ha : s.answers with
  | nil => exact ⟨_, (Move.unanswered hst hp ha).step⟩
  | cons a rest =>
    cases a with
    | fail e => exact ⟨_, (Move.fail hst hp ha).step⟩
    | bytes rx =>
      by_cases hlen : rx.length = tx.length
      · exact ⟨_, (Move.answer hst hp ha htx hlen).step⟩
      · exact ⟨_, (Move.mismatch hst hp ha htx hlen).step⟩

theorem exists_step_of_demux {s : State} (hinv : Invariant s) (hp : s.phase = .demux) : ∃ t, step s = .next t := by
  obtain ⟨ops, n, -, -, -, hle, ho, hn, -⟩ := hinv.demuxInv hp
  rcases getElem?_or_eq_length hle with ⟨i, hi⟩ | rfl
  · obtain ⟨rx, len, cur, l, res, r, -, -, -, -, -, -, hstep⟩ :=
      demultiplexStepParsesOneSlice s ops n i hinv hp ho hn hi
    exact ⟨_, hstep⟩
  · obtain ⟨rx, res, -, -, -, -, hstep⟩ := returnSendsResults s ops hinv hp ho hn
    exact ⟨_, hstep⟩

/-- Settles O37: construction always ends, and an operational block steps in each of the four phases. -/
theorem builtCoreAlwaysSteps : Obligations.BuiltCoreAlwaysSteps := by
  intro s hinv hbuilt
  cases hst : s.stage with
  | construction limits bus => exact ⟨_, step_construction hst⟩
  | abandoned failed => exact absurd hst (hbuilt failed)
  | operational =>
    cases hp : s.phase with
    | idle => exact ⟨_, step_idle hst hp⟩
    | flatten => exact exists_step_of_flatten hinv hp
    | exchange =>
      obtain ⟨ops, -, -, -, htx, -⟩ := hinv.exchangeInv hp
      exact exists_step_of_exchange hst hp htx
    | demux => exact exists_step_of_demux hinv hp

/-! ### Where transfers come from (R144) -/

/-- R144: a move goes from FLATTEN to EXCHANGE at the end of the walk. -/
theorem Move.walkEnded_of_flatten_to_exchange {s t : State} {events : List Event} (h : Move s events t)
    (hp : s.phase = .flatten) (ht : t.phase = .exchange) : WalkEnded s := by
  cases h with
  | construct hst => simp [hp] at ht
  | issue hst hp' ho hn htx => exact ⟨_, ho, hn⟩
  | uncalled | refuse | flatten | unanswered | demux => cases hp.symm.trans ht
  | accept | answer | fail | mismatch | giveBack => cases ht

/-- R144: a move that requests a transfer is the issue. -/
theorem Move.issues_of_isTransfer {s t : State} {events : List Event} (h : Move s events t) {e : Event}
    (he : e ∈ events) (htransfer : e.isTransfer = true) : s.phase = .flatten ∧ t.phase = .exchange := by
  cases h with
  | construct hst =>
    rcases mem_constructionEvents.1 he with ⟨-, rfl⟩ | ⟨-, rfl⟩ <;> cases htransfer
  | issue hst hp => exact ⟨hp, rfl⟩
  | uncalled | accept | flatten | unanswered | answer | demux => cases he
  | refuse | fail | mismatch | giveBack =>
    obtain rfl := List.mem_singleton.1 he
    cases htransfer

/-- R142: FLATTEN is entered by accepting a call. -/
theorem Move.flatten_entered {s t : State} {events : List Event} (h : Move s events t) (ht : t.phase = .flatten) :
    s.phase = .flatten ∨ (s.phase = .idle ∧ ∃ ops, s.calls = ops :: t.calls) := by
  cases h with
  | construct hst => exact .inl (by simpa using ht)
  | accept hst hp hc hwf => exact .inr ⟨hp, _, hc⟩
  | refuse | uncalled | flatten | unanswered | demux => exact .inl ht
  | issue | answer | fail | mismatch | giveBack => cases ht

/-- Settles O45: the three lemmas on a move, and the buffer the invariant gives at issue. -/
theorem transferOnlyAtIssue : Obligations.TransferOnlyAtIssue := by
  intro s t hinv h
  obtain ⟨added, hmove⟩ := exists_move h
  refine ⟨fun ⟨hp, ht⟩ => ?_, fun hno events hadd e he => ?_, hmove.flatten_entered⟩
  · obtain ⟨ops, ho, hn⟩ := hmove.walkEnded_of_flatten_to_exchange hp ht
    have hissue := (step_issue_of_invariant hinv hp ho hn).2
    obtain rfl := Host.Outcome.next.inj (h.symm.trans hissue)
    exact ⟨ops, ho, rfl⟩
  · rw [← Bool.not_eq_true]
    exact fun htransfer => hno ((move_of_history h hadd).issues_of_isTransfer he htransfer)

/-! ### Where errors come from (R170 to R175) -/

theorem aborted_idleAtStart (e : Abort) (s : State) : IdleAtStart (s.aborted e) :=
  ⟨rfl, aborted_noValues e s⟩

/-- Settles O56: of the moves only construction and the two aborts add an event of an error class. -/
theorem errorsRaisedAsTabled : Obligations.ErrorsRaisedAsTabled := by
  intro s t events h hadd e he c hc
  cases move_of_history h hadd with
  | @construct limits bus hst =>
    rcases mem_constructionEvents.1 he with ⟨hne, rfl⟩ | ⟨hne, rfl⟩
    · cases hc
      have hstage : stageAfterCheck (failedConstraints limits bus) = .abandoned (failedConstraints limits bus) :=
        if_neg hne
      exact ⟨limits, bus, _, hst, rfl, hne, fun _ => mem_failedConstraints, by rw [construct_eq_with, hstage]⟩
    · cases hc
      exact ⟨limits, bus, _, hst, rfl, hne, fun _ => mem_unrecognisedFlags⟩
  | uncalled | accept | flatten | unanswered | answer | demux => cases he
  | refuse | issue | giveBack =>
    obtain rfl := List.mem_singleton.1 he
    cases hc
  | fail hst hp ha =>
    obtain rfl := List.mem_singleton.1 he
    cases hc
    exact ⟨_, _, hp, ha, rfl, rfl, aborted_idleAtStart _ _⟩
  | mismatch hst hp ha htx hlen =>
    obtain rfl := List.mem_singleton.1 he
    cases hc
    exact ⟨_, _, _, hp, htx, ha, hlen, rfl, rfl, aborted_idleAtStart _ _⟩

/-- The class with this ordinal, for the ordinals 0 to 4 (R171). -/
def ErrorClass.ofOrdinal : Nat → ErrorClass
  | 0 => .configurationError
  | 1 => .configurationWarning
  | 2 => .protocolInvariantViolation
  | 3 => .callerContractViolation
  | _ => .transportFailure

theorem ErrorClass.ofOrdinal_ordinal : Function.LeftInverse ErrorClass.ofOrdinal ErrorClass.ordinal := by
  intro c
  cases c <;> rfl

/-- Settles O55: the table row by row, and an ordinal gives its class back. -/
theorem errorClassOrdinals : Obligations.ErrorClassOrdinals := by
  refine ⟨⟨rfl, rfl⟩, ⟨rfl, rfl⟩, ⟨rfl, rfl⟩, ⟨rfl, rfl⟩, ⟨rfl, rfl⟩, fun c => ?_, fun c d h => ?_⟩
  · cases c <;> decide
  · exact ErrorClass.ofOrdinal_ordinal.injective h

end Sys2Proof.Machine
end

section
/-! The family other: one operation by itself (R111, R114), and the registers it reads (D14). -/

namespace Sys2Proof.Machine

/-! ### The frame and the stops of an operation -/

/-- Settles O18: of the two walks, FLATTEN writes TX, LEN and IDX, and DEMUX writes RES, CUR and IDX. -/
theorem operationFrame : Obligations.OperationFrame := by
  intro i s t h
  rcases exec_eq_next.1 h with ⟨hp, h⟩ | ⟨hp, h⟩
  · obtain ⟨n, tx, len, -, -, -, rfl⟩ := flattenStep_eq_next.1 h
    simp [hp]
  · obtain ⟨n, len, rx, cur, res, l, r, -, -, -, -, -, -, -, rfl⟩ := demuxStep_eq_next.1 h
    simp [hp]

/-- Settles O19: both operations are the shared run, which refuses in the two phases without a walk. -/
theorem operationOutsideWalkStops : Obligations.OperationOutsideWalkStops := by
  intro i s
  rw [exec_eq_runOperation]
  exact ⟨fun hp => by rw [runOperation, hp], fun hp => by rw [runOperation, hp]⟩

/-- R147, D21: a slice the operation does not parse is refused with its length. -/
theorem exec_demux_refused {i : Instr} {s : State} {n l cur : Nat} {len : List Nat} {rx : List Byte}
    {res : List Result} (hp : s.phase = .demux) (hn : s.idx = some n) (hl : s.len = some len)
    (hrx : s.rx = some rx) (hc : s.cur = some cur) (hr : s.res = some res) (hln : len[n]? = some l)
    (hpa : parse i (slice rx cur (cur + l)) = none) :
    exec i s = .refused (.sliceLength (slice rx cur (cur + l)).length) := by
  simp [exec_eq_runOperation, runOperation, demuxStep, hp, hn, hl, hrx, hc, hr, hln, hpa]

/-- Settles O20: `parseRead_eq_none` on a slice whose length is that of `slice_length`. -/
theorem readOfOtherSliceLengthRefused : Obligations.ReadOfOtherSliceLengthRefused := by
  intro addr n s i l cur len rx res hp hn hl hrx hc hr hln hlen
  rw [← slice_length] at hlen ⊢
  exact exec_demux_refused hp hn hl hrx hc hr hln (parseRead_eq_none.2 hlen)

/-! ### Registers without a value (R32, D14) -/

theorem faultsOnMissing_nil (s : State) (o : StepOutcome) : FaultsOnMissing s [] o := by
  rintro ⟨r, hr, -⟩
  cases hr

/-- A register that is read first faults where it is missing, and otherwise leaves the fault to the later reads. -/
theorem faultsOnMissing_need {α : Type} {s : State} {r : Reg} {rs : List Reg} {v : Option α} {k : α → StepOutcome}
    (hv : s.lacks r = v.isNone) (hk : ∀ a, v = some a → FaultsOnMissing s rs (k a)) :
    FaultsOnMissing s (r :: rs) (need r v k) := by
  rintro ⟨m, hm, hlacks⟩
  cases v with
  | none => exact ⟨r, List.mem_cons_self, hv, rfl⟩
  | some a =>
    rcases List.mem_cons.1 hm with rfl | hm
    · simp [hlacks] at hv
    · obtain ⟨q, hq, hqlacks, hfault⟩ := hk a rfl ⟨m, hm, hlacks⟩
      exact ⟨q, List.mem_cons_of_mem r hq, hqlacks, hfault⟩

/-- The last register read. -/
theorem faultsOnMissing_need_last {α : Type} {s : State} {r : Reg} {v : Option α} {k : α → StepOutcome}
    (hv : s.lacks r = v.isNone) : FaultsOnMissing s [r] (need r v k) :=
  faultsOnMissing_need hv fun a _ => faultsOnMissing_nil s (k a)

/-- R143: a flatten step reads `IDX`, `TX` and `LEN`. -/
theorem faultsOnMissing_flattenStep (p : List Byte) (s : State) :
    FaultsOnMissing s [.idx, .tx, .len] (flattenStep p s) :=
  faultsOnMissing_need rfl fun _ _ => faultsOnMissing_need rfl fun _ _ => faultsOnMissing_need_last rfl

/-- R147: a demultiplex step reads `IDX`, `LEN`, `RX`, `CUR` and `RES`. -/
theorem faultsOnMissing_demuxStep (parse : List Byte → Option Result) (s : State) :
    FaultsOnMissing s [.idx, .len, .rx, .cur, .res] (demuxStep parse s) :=
  faultsOnMissing_need rfl fun _ _ => faultsOnMissing_need rfl fun _ _ => faultsOnMissing_need rfl fun _ _ =>
    faultsOnMissing_need rfl fun _ _ => faultsOnMissing_need_last rfl

/-- R27: the end of a walk reads `OPS` and `IDX`. -/
theorem faultsOnMissing_atEnd (k : State → StepOutcome) (s : State) : FaultsOnMissing s [.ops, .idx] (atEnd s k) :=
  faultsOnMissing_need rfl fun _ _ => faultsOnMissing_need_last rfl

/-- Where `OPS` or `IDX` is missing, no operation is at the program counter (R27). -/
theorem fetched_eq_none_of_lacks {s : State} (h : ∃ r ∈ [Reg.ops, Reg.idx], s.lacks r = true) : fetched s = none := by
  rw [Option.eq_none_iff_forall_ne_some]
  intro i hi
  obtain ⟨-, -, ops, n, ho, hn, -⟩ := fetched_eq_some.1 hi
  simp [State.lacks, ho, hn] at h

theorem atEnd_of_walkEnded {s : State} (h : WalkEnded s) (k : State → StepOutcome) : atEnd s k = k s := by
  obtain ⟨ops, ho, hn⟩ := h
  simp [atEnd, ho, hn]

theorem fetched_eq_none_of_walkEnded {s : State} (h : WalkEnded s) : fetched s = none := by
  obtain ⟨ops, ho, hn⟩ := h
  exact fetched_eq_none_of_end ho hn

theorem coordinate_flatten {s : State} (hst : s.stage = .operational) (hp : s.phase = .flatten) :
    coordinate s = atEnd s issue := by
  simp [coordinate, hst, hp]

theorem coordinate_demux {s : State} (hst : s.stage = .operational) (hp : s.phase = .demux) :
    coordinate s = atEnd s finish := by
  simp [coordinate, hst, hp]

/-- A walk that looks for its next operation reads `OPS` and `IDX` (R27). -/
theorem faultsOnMissing_walk {s : State} (hst : s.stage = .operational)
    (hp : s.phase = .flatten ∨ s.phase = .demux) : FaultsOnMissing s [.ops, .idx] (step s) := by
  intro hmissing
  rw [step_coordinate (fetched_eq_none_of_lacks hmissing)]
  rcases hp with hp | hp
  · rw [coordinate_flatten hst hp]
    exact faultsOnMissing_atEnd issue s hmissing
  · rw [coordinate_demux hst hp]
    exact faultsOnMissing_atEnd finish s hmissing

/-- R145: an answer of bytes goes to the length check. -/
theorem step_bytes {s : State} {rx : List Byte} {rest : List Answer} (hst : s.stage = .operational)
    (hp : s.phase = .exchange) (ha : s.answers = .bytes rx :: rest) :
    step s = takeAnswer (.bytes rx) (s.withAnswers rest) := by
  rw [step_coordinate (fetched_eq_none_of_not_walks (by rw [hp]; rfl))]
  simp [coordinate, serveTransport, hst, hp, ha]

/-- Settles O21: each rule's registers in the order it reads them, by `faultsOnMissing_need`. -/
theorem registerWithoutValueFaults : Obligations.RegisterWithoutValueFaults := by
  intro s
  refine ⟨fun i hp => ?_, fun i hp => ?_, faultsOnMissing_walk, fun hst hp hend => ?_,
    fun hst hp rx rest ha => ?_, fun hst hp hend => ?_⟩
  · simpa [exec_eq_runOperation, runOperation, hp] using faultsOnMissing_flattenStep (encode i) s
  · simpa [exec_eq_runOperation, runOperation, hp] using faultsOnMissing_demuxStep (parse i) s
  · rw [step_coordinate (fetched_eq_none_of_walkEnded hend), coordinate_flatten hst hp, atEnd_of_walkEnded hend]
    exact faultsOnMissing_need_last rfl
  · rw [step_bytes hst hp ha]
    exact faultsOnMissing_need_last rfl
  · rw [step_coordinate (fetched_eq_none_of_walkEnded hend), coordinate_demux hst hp, atEnd_of_walkEnded hend]
    exact faultsOnMissing_need_last rfl

/-! ### The operation at the program counter (R27) -/

/-- Settles O22: the operation at the program counter is fetched. -/
theorem stepRunsFetchedOperation : Obligations.StepRunsFetchedOperation := by
  intro s ops n i hst hp ho hn hi
  have hwalks : s.phase.walks = true := by rcases hp with hp | hp <;> rw [hp] <;> rfl
  exact step_fetched (fetched_eq_some.2 ⟨hst, hwalks, ops, n, ho, hn, hi⟩)

/-- Settles O23: the placed operation is the first of a list just accepted, so the next step flattens it. -/
theorem stepRunsPlacedWord : Obligations.StepRunsPlacedWord := by
  intro s nbits w i hw
  have hplaced : s.withFetchWord nbits w = s.loaded i := by rw [State.withFetchWord, hw]
  have hflatten : step (s.loaded i) = .next ((s.loaded i).flattened 0 [] [] (encode i)) :=
    step_flatten (ops := [i]) rfl rfl rfl rfl rfl rfl rfl
  rw [hplaced]
  exact ⟨step_fetched (fetched_eq_some.2 ⟨rfl, rfl, [i], 0, rfl, rfl, rfl⟩), hflatten⟩

end Sys2Proof.Machine
end

section
/-! The family other: whole calls, refused, answered and unanswered (R92, R145, R150). -/

namespace Sys2Proof.Machine

/-! ### The reasons of a refusal (R11, R12, R92) -/

theorem mem_refusalReasons {cap : Capacity} {ops : List Instr} {r : IllFormed} :
    r ∈ refusalReasons cap ops ↔ illFormedBecause cap ops r = true := by
  cases r <;> simp [refusalReasons]

/-- D8: a value is over a bound only where the bound is finite. -/
theorem boundExceeded_iff {b : Bound} {v : Nat} :
    (!b.admits v) = true ↔ ∃ m, b = some m ∧ m < v := by
  cases b <;> simp [Bound.admits]

theorem badAddress_iff {cap : Capacity} {ops : List Instr} :
    illFormedBecause cap ops .badAddress = true ↔ ∃ i ∈ ops, i.addr ∉ Config.validAddr := by
  simp [illFormedBecause, Addr.valid]

theorem zeroWidthRead_iff {cap : Capacity} {ops : List Instr} :
    illFormedBecause cap ops .zeroWidthRead = true ↔ ∃ a, Instr.read a 0 ∈ ops := by
  simp only [illFormedBecause, List.any_eq_true]
  constructor
  · rintro ⟨i, hi, h⟩
    cases i with
    | read a n =>
      obtain rfl : n = 0 := by simpa using h
      exact ⟨a, hi⟩
    | write a d => cases h
  · rintro ⟨a, ha⟩
    exact ⟨_, ha, rfl⟩

theorem tooLong_iff {cap : Capacity} {ops : List Instr} :
    illFormedBecause cap ops .tooLong = true ↔
      (∃ m, cap.maxOps = some m ∧ m < ops.length)
        ∨ (∃ m a n, cap.maxN = some m ∧ Instr.read a n ∈ ops ∧ m < n)
        ∨ (∃ m a d, cap.maxData = some m ∧ Instr.write a d ∈ ops ∧ m < d.length)
        ∨ ∃ m, cap.maxTx = some m ∧ m < (flattenAll ops).length := by
  simp only [illFormedBecause, Bool.or_eq_true, List.any_eq_true, boundExceeded_iff, flattenAll_length]
  constructor
  · rintro ((h | ⟨i, hi, h⟩) | h)
    · exact .inl h
    · cases i with
      | read a n =>
        obtain ⟨m, hm, hlt⟩ := boundExceeded_iff.1 h
        exact .inr (.inl ⟨m, a, n, hm, hi, hlt⟩)
      | write a d =>
        obtain ⟨m, hm, hlt⟩ := boundExceeded_iff.1 h
        exact .inr (.inr (.inl ⟨m, a, d, hm, hi, hlt⟩))
    · exact .inr (.inr (.inr h))
  · rintro (h | ⟨m, a, n, hm, hi, hlt⟩ | ⟨m, a, d, hm, hi, hlt⟩ | h)
    · exact .inl (.inl h)
    · exact .inl (.inr ⟨_, hi, boundExceeded_iff.2 ⟨m, hm, hlt⟩⟩)
    · exact .inl (.inr ⟨_, hi, boundExceeded_iff.2 ⟨m, hm, hlt⟩⟩)
    · exact .inr h

/-- Settles O25: the reasons are those of `refusalReasons`, each by what makes a list ill-formed for it. -/
theorem illFormedListRefused : Obligations.IllFormedListRefused := by
  intro s ops rest hst hp hc hwf
  have hne : refusalReasons s.cap ops ≠ [] := fun hnil => by simp [refusalReasons_eq_nil.1 hnil] at hwf
  exact ⟨refusalReasons s.cap ops, hne, step_refused_call hst hp hc hwf,
    mem_refusalReasons.trans List.isEmpty_iff, mem_refusalReasons.trans badAddress_iff,
    mem_refusalReasons.trans zeroWidthRead_iff, mem_refusalReasons.trans tooLong_iff⟩

/-- Settles O57: a width that is not the register's is what `WIDTHS_TRUE` excludes; an address that is not enumerated
is a reason to refuse. -/
theorem callerContractCases : Obligations.CallerContractCases := by
  intro s ops rest width hst hp hc hviolated
  rcases hviolated with ⟨a, n, hi, hne⟩ | ⟨i, hi, hbad⟩
  · exact .inl fun htrue => hne (htrue a n hi)
  · have hreason : IllFormed.badAddress ∈ refusalReasons s.cap ops :=
      mem_refusalReasons.2 (List.any_eq_true.2 ⟨i, hi, by rw [hbad]; rfl⟩)
    have hwf : transactionWellFormed s.cap ops = false := by
      rw [← Bool.not_eq_true, ← refusalReasons_eq_nil]
      exact List.ne_nil_of_mem hreason
    exact .inr ⟨_, hreason, step_refused_call hst hp hc hwf⟩

/-! ### Waiting (R54) -/

/-- A step that changes nothing is repeated for ever. -/
theorem steps_of_step_self {s : State} (h : step s = .next s) (n : Nat) : steps n s = .next s := by
  induction n with
  | zero => rfl
  | succ n ih => rw [steps_succ h, ih]

/-- Settles O28: both waiting steps change nothing. -/
theorem waitingChangesNothing : Obligations.WaitingChangesNothing :=
  fun _ n hst => ⟨fun hp ha => steps_of_step_self (step_unanswered hst hp ha) n,
    fun hp hc => steps_of_step_self (step_uncalled hst hp hc) n⟩

/-- Settles O39: the call reaches EXCHANGE, where it waits. -/
theorem operateUnanswered : Obligations.OperateUnanswered := by
  intro s ops rest n hst hidle hc ha hwf
  obtain ⟨hp, -⟩ := hidle
  rw [steps_add (steps_to_exchange hst hp hc hwf)]
  refine steps_of_step_self (step_unanswered ?_ ?_ ?_) n
  · exact hst
  · rfl
  · exact ha

/-! ### Answered calls (R150, R153) -/

/-- Settles O30: the move of a reported failure, with the aborted state written out. -/
theorem transportFailureAborts : Obligations.TransportFailureAborts :=
  fun _ _ _ hst hp ha => (Move.fail hst hp ha).step

/-- Settles O38: `steps_answered_call`, with the outcome and the number of steps of each kind of answer. -/
theorem operateAnswered : Obligations.OperateAnswered := by
  intro s ops rest a answers hst hidle hc ha hwf
  cases a with
  | fail e => exact steps_answered_call hst hidle hc ha hwf rfl
  | bytes rx =>
    by_cases hlen : rx.length = (flattenAll ops).length
    · obtain ⟨res, hd⟩ := demuxAll_total hlen.ge
      have hout := outcomeOf_eq_results.2 ⟨hlen, hd⟩
      have hcall := steps_answered_call hst hidle hc ha hwf hout
      have hcount : ops.length + 2 + answerSteps ops (.bytes rx) = 2 * ops.length + 4 := by
        rw [answerSteps, if_pos hlen]
        omega
      rw [hcount] at hcall
      exact (if_pos hlen).mpr ⟨res, hout, hcall⟩
    · have hout : outcomeOf ops (.bytes rx)
          = some (.abort (.protocolInvariantViolation (flattenAll ops).length rx.length)) := if_neg hlen
      have hcall := steps_answered_call hst hidle hc ha hwf hout
      rw [answerSteps, if_neg hlen] at hcall
      exact (if_neg hlen).mpr hcall

/-! ### Composition (R150) -/

/-- Bytes after the last slice are not looked at (log 28). -/
theorem demuxAll_append_response {ops : List Instr} {rx : List Byte} {res : List Result}
    (hlen : rx.length = (flattenAll ops).length) (h : demuxAll ops rx = some res) (more : List Byte) :
    demuxAll ops (rx ++ more) = some res := by
  induction ops generalizing rx res with
  | nil => exact h
  | cons i is ih =>
    rw [flattenAll_cons, List.length_append, encode_length] at hlen
    have hle : transmitLength i ≤ rx.length := by omega
    simp only [demuxAll] at h
    split at h
    · next r rs hpa hrest =>
      cases h
      have hrest' := ih (by rw [List.length_drop]; omega) hrest
      simp only [demuxAll, List.take_append_of_le_length hle, List.drop_append_of_le_length hle, hpa, hrest']
    · cases h

/-- Settles O48: the slices of the first list are cut from the first response, and those of the second begin where they
end. -/
theorem transactionsCompose : Obligations.TransactionsCompose := by
  refine fun as bs ra rb => ⟨flattenAll_append as bs, fun ha hb => ?_⟩
  obtain ⟨xs, hxs⟩ := demuxAll_total ha.ge
  obtain ⟨ys, hys⟩ := demuxAll_total hb.ge
  have hcut : (ra ++ rb).drop (as.map transmitLength).sum = rb := by
    rw [← flattenAll_length, List.drop_left' ha]
  exact ⟨xs, ys, hxs, hys, demuxAll_append (demuxAll_append_response ha hxs rb) (hcut.symm ▸ hys)⟩

end Sys2Proof.Machine
end
